-- ==== Sys2Proof/Word.lean ====
section
/-! DEFINITION. The word types of crc16gen, named once (00_scope.md R7, R10: every value is an unsigned
integer of a stated width). -/

namespace Sys2Proof

/-- 8 bits: a message byte, a TBL7 slot, ACC7, a table index, a window byte (R7, R12). -/
abbrev Byte := BitVec 8

/-- 16 bits: a TBL16 entry, ACC16 (R7). -/
abbrev Half := BitVec 16

/-- 32 bits: a command word and a host register access (R7: "Command word width", "Host data width"). -/
abbrev Word := BitVec 32

/-- 12 bits: a byte offset in the host offset space 0x000..0xFFF (R7, R50). -/
abbrev Offset := BitVec 12

end Sys2Proof
end

