-- ==== Sys2Proof/Config.lean ====
section
/-! DEFINITION. The OPEN parameters of 00_scope.md R7 (92_eei_decisions.md, "OPEN parameters"): constants with no
body, because the platform or an implementation fixes them and "no rule's result depends on" them. -/

namespace Sys2Proof.Config

/-- BLOCK_BASE (R7, R50): the host address of offset 0x000. -/
opaque blockBase : Nat

/-- LAT_CMD (R7, R248): cycles of NOP, SET, UPD, WR and CLRERR. -/
opaque latCmd : Nat

/-- LAT_BUILD16 (R7, R248): cycles of BUILD16. -/
opaque latBuild16 : Nat

/-- LAT_BUILD7 (R7, R248): cycles of BUILD7. -/
opaque latBuild7 : Nat

/-- LAT_VERIFY (R7, R248): cycles of VERIFY; "may depend on `set` and on where it fails"
(92_eei_decisions.md, OPEN parameters). `none` stands for a VERIFY that passes. -/
opaque latVerify : BitVec 2 → Option (BitVec 3) → Nat

end Sys2Proof.Config
end

