-- ==== Sys2Proof/Machine/Operands.lean ====
section
/-! DEFINITION. The fields of a command word and the one widening the block knows (30_encoding.md R80, R81;
00_scope.md R10): every operand is an unsigned bit field, zero-extended where it goes to a wider place. -/

namespace Sys2Proof.Machine

/-- OP, bits 31:28 (R80). -/
def opField (w : Word) : BitVec 4 := w.extractLsb' 28 4

/-- RSV, bits 27:24 (R80): must be 0 in every command. -/
def rsvField (w : Word) : BitVec 4 := w.extractLsb' 24 4

/-- IDX, bits 23:16 (R80); the operand `idx` of WR16 and WR7 (R81). -/
def idxField (w : Word) : Byte := w.extractLsb' 16 8

/-- DATA, bits 15:0 (R80); the operand `imm16` of SET16 and WR16 (R81). -/
def dataField (w : Word) : Half := w.extractLsb' 0 16

/-- Bits 15:8, the part of DATA that an 8-bit operand leaves unused (R82). -/
def dataHigh (w : Word) : Byte := w.extractLsb' 8 8

/-- Bits 7:0: the operand `imm8` of SET7 and WR7, `b` of UPD16 and UPD7 (R81). -/
def byteField (w : Word) : Byte := w.extractLsb' 0 8

/-- Bits 7:2, the part of the low byte that VERIFY leaves unused (R82). -/
def verifyHigh (w : Word) : BitVec 6 := w.extractLsb' 2 6

/-- Bits 1:0: the operand `set` of VERIFY (R81). -/
def setField (w : Word) : BitVec 2 := w.extractLsb' 0 2

/-- `zext_32` of 00_scope.md R10. -/
def zext32 {n : Nat} (v : BitVec n) : Word := v.setWidth 32

/-- `zext_16` of 00_scope.md R10. -/
def zext16 {n : Nat} (v : BitVec n) : Half := v.setWidth 16

/-- A command word from its fields, RSV = 0 (R80). -/
def assemble (op : BitVec 4) (idx : Byte) (data : Half) : Word := op ++ 0#4 ++ idx ++ data

end Sys2Proof.Machine
end

