-- ==== Sys2Proof/Syntax.lean ====
section
/-! DEFINITION. The commands of crc16gen: one constructor per row of opcode_table.json, operands as
30_encoding.md R81 gives them. -/

namespace Sys2Proof

/-- A command (00_scope.md R13: "the block's instruction"). -/
inductive Instr where
  /-- 44_system.md R200 -/
  | nop
  /-- 40_table_builder.md R100 -/
  | build16
  /-- 40_table_builder.md R102 -/
  | build7
  /-- 41_reference_codec.md R130 -/
  | set16 (imm16 : Half)
  /-- 41_reference_codec.md R131 -/
  | set7 (imm8 : Byte)
  /-- 41_reference_codec.md R132 -/
  | upd16 (b : Byte)
  /-- 41_reference_codec.md R133 -/
  | upd7 (b : Byte)
  /-- 42_verifier.md R161: `set` is the 2-bit operand w[1:0]; 0 = ALL, 1 = CRC16, 2 = CRC7, 3 illegal. -/
  | verify (set : BitVec 2)
  /-- 40_table_builder.md R105 -/
  | wr16 (idx : Byte) (imm16 : Half)
  /-- 40_table_builder.md R106 -/
  | wr7 (idx : Byte) (imm8 : Byte)
  /-- 44_system.md R201 -/
  | clrerr
deriving DecidableEq, Repr

end Sys2Proof
end

