-- ==== Sys2Proof/WellFormed.lean ====
section
/-! DEFINITION. Which commands are legal (30_encoding.md R82, R85). Every operand is as wide as its field, so the
only term that no legal word stands for is VERIFY with set 3. -/

namespace Sys2Proof

/-- R85: "OP = 0x7 and `w[1:0]` = 3" is illegal; every value of every other operand is legal (R82). -/
def Instr.wellFormed : Instr → Bool
  | .nop => true
  | .build16 => true
  | .build7 => true
  | .set16 _ => true
  | .set7 _ => true
  | .upd16 _ => true
  | .upd7 _ => true
  | .verify set => set != 3#2
  | .wr16 _ _ => true
  | .wr7 _ _ => true
  | .clrerr => true

/-- The check as a proposition. -/
abbrev Instr.WellFormed (i : Instr) : Prop := i.wellFormed = true

end Sys2Proof
end

