-- ==== Sys2Proof/Decode.lean ====
section
/-! DEFINITION. The command decoder, total on every 32-bit word and rejecting by name (30_encoding.md R80 to R85), and
the encoder written from the same format (R80, R81, R88). -/

namespace Sys2Proof

open Machine

/-- Why a word is illegal: the three causes of R85, which all have one effect (ILL). -/
inductive DecodeError where
  /-- "`w[31:28]` is 0xB, 0xC, 0xD, 0xE or 0xF" -/
  | reservedOp
  /-- "a must-be-zero bit of its row in rule R82 is 1" -/
  | mustBeZero
  /-- "OP = 0x7 and `w[1:0]` = 3" -/
  | verifySet
deriving DecidableEq, Repr

/-- `i` when the must-be-zero bits of its row are 0 (R82). -/
def whenZero (zero : Bool) (i : Instr) : Except DecodeError Instr :=
  if zero then .ok i else .error .mustBeZero

/-- The command a word stands for (R84 chooses the row by OP, R82 names each row's must-be-zero bits). -/
def decode (w : Word) : Except DecodeError Instr :=
  let noRsv := rsvField w == 0#4
  let noIdx := noRsv && idxField w == 0#8
  match (opField w).toNat with
  | 0 => whenZero (noIdx && dataField w == 0#16) .nop
  | 1 => whenZero (noIdx && dataField w == 0#16) .build16
  | 2 => whenZero (noIdx && dataField w == 0#16) .build7
  | 3 => whenZero noIdx (.set16 (dataField w))
  | 4 => whenZero (noIdx && dataHigh w == 0#8) (.set7 (byteField w))
  | 5 => whenZero (noIdx && dataHigh w == 0#8) (.upd16 (byteField w))
  | 6 => whenZero (noIdx && dataHigh w == 0#8) (.upd7 (byteField w))
  | 7 =>
    if setField w = 3#2 then .error .verifySet
    else whenZero (noIdx && dataHigh w == 0#8 && verifyHigh w == 0#6) (.verify (setField w))
  | 8 => whenZero noRsv (.wr16 (idxField w) (dataField w))
  | 9 => whenZero (noRsv && dataHigh w == 0#8) (.wr7 (idxField w) (byteField w))
  | 10 => whenZero (noIdx && dataField w == 0#16) .clrerr
  | _ => .error .reservedOp

/-- The word of a command: OP, IDX and DATA as R84, R81 and R88 give them. -/
def encode : Instr → Word
  | .nop => assemble 0x0#4 0#8 0#16
  | .build16 => assemble 0x1#4 0#8 0#16
  | .build7 => assemble 0x2#4 0#8 0#16
  | .set16 imm16 => assemble 0x3#4 0#8 imm16
  | .set7 imm8 => assemble 0x4#4 0#8 (zext16 imm8)
  | .upd16 b => assemble 0x5#4 0#8 (zext16 b)
  | .upd7 b => assemble 0x6#4 0#8 (zext16 b)
  | .verify set => assemble 0x7#4 0#8 (zext16 set)
  | .wr16 idx imm16 => assemble 0x8#4 idx imm16
  | .wr7 idx imm8 => assemble 0x9#4 idx (zext16 imm8)
  | .clrerr => assemble 0xA#4 0#8 0#16

/-- The low `nbits` bits of `w` as a command word, every bit above them 0. A command has one length, 32 bits (R86), and
a word has no byte order (20_memory.md R54, R65: nothing is fetched). -/
def tableWord (nbits w : Nat) : Word := BitVec.ofNat 32 (w % 2 ^ nbits)

/-- The instruction the decoder reads from a word numbered as opcode_table.json numbers its bits. -/
def decodeTableWord (nbits w : Nat) : Option Instr :=
  match decode (tableWord nbits w) with
  | .ok i => some i
  | .error _ => none

end Sys2Proof
end

