-- ==== Sys2Proof/Machine/State.lean ====
section
/-! DEFINITION. The state of crc16gen, exactly the tuple of 10_state.md R20, with two fields of the model's own beside
it: the operations the outside world has still to perform, and the values its reads have returned (00_scope.md R9). -/

namespace Sys2Proof.Machine

/-- TBL16 (R35): "a RAM of 256 entries of 16 bits". -/
abbrev Table16 := Vector Half 256

/-- TBL7 (R36): "a RAM of 256 entries of 8 bits". -/
abbrev Table7 := Vector Byte 256

/-- The fields of STATUS (R29). Its other bits are reserved and read 0, so they are no state. -/
structure Status where
  /-- bit 0: TBL16 passed vector 0 and is unchanged since; WIN16 is open -/
  v16 : Bool
  /-- bit 1: TBL7 passed vectors 1..5 and is unchanged since; WIN7 is open -/
  v7 : Bool
  /-- bit 2: the last VERIFY failed -/
  vfail : Bool
  /-- bits 6:4: the first mismatching vector, valid when VFAIL = 1 -/
  vidx : BitVec 3
  /-- bit 8, sticky: a command word was refused -/
  ill : Bool
  /-- bit 9, sticky: a read of unverified table data was refused -/
  gate : Bool
  /-- bit 10, sticky: a host access was refused -/
  berr : Bool
deriving DecidableEq, Repr

/-- CTRL.ORDER (R30): the target byte order of WIN16. -/
inductive ByteOrder where
  /-- ORDER = 0: most significant byte of each entry at the even offset -/
  | big
  /-- ORDER = 1 -/
  | little
deriving DecidableEq, Repr

/-- The errors a host operation can raise (00_scope.md R12, 60_exceptions.md R211). VFAIL is a result, not one of
them (R215). -/
inductive Error where
  /-- an illegal command word (R212) -/
  | ill
  /-- a window read while its gate is closed (R214) -/
  | gate
  /-- an access that 20_memory.md R52 does not list (R213) -/
  | berr
deriving DecidableEq, Repr

/-- A host access: direction, offset and width, 4 bytes or 1 (20_memory.md R52; the operations of 00_scope.md R9, and the
byte write, which R52 never lists). -/
inductive Access where
  /-- `MemRead(off, 4)` -/
  | rd32 (off : Offset)
  /-- `MemRead(off, 1)` -/
  | rd8 (off : Offset)
  /-- `MemWrite(off, 4, v)` -/
  | wr32 (off : Offset) (v : Word)
  /-- `MemWrite(off, 1, v)` -/
  | wr8 (off : Offset) (v : Byte)
deriving DecidableEq, Repr

/-- What the outside world does to the block next: a host access, or the platform's reset (70_reset_and_hazards.md R240)
together with the accesses it abandons, the command in progress and the operation held behind it. -/
inductive Input where
  | host (a : Access)
  | reset (abandoned : List Access)
deriving DecidableEq, Repr

/-- A value a host read returned, of the read's width (20_memory.md R52). -/
inductive ReadValue where
  | word (v : Word)
  | byte (v : Byte)
deriving DecidableEq, Repr

/-- The machine's state. -/
structure State where
  /-- ACC16 (R21) -/
  acc16 : Half
  /-- ACC7 (R22) -/
  acc7 : Byte
  /-- TBL16 (R35) -/
  tbl16 : Table16
  /-- TBL7 (R36) -/
  tbl7 : Table7
  /-- STATUS (R29) -/
  status : Status
  /-- CTRL.ORDER (R30) -/
  order : ByteOrder
  /-- The model's own: the operations still to be performed, the next one first (00_scope.md R9, 20_memory.md R62). -/
  pending : List Input
  /-- The model's own: "the list of values the reads returned, in order" (00_scope.md R9). -/
  reads : List ReadValue
deriving DecidableEq, Repr

/-- STATUS at reset (R42): every field 0. -/
def Status.reset : Status :=
  { v16 := false, v7 := false, vfail := false, vidx := 0#3, ill := false, gate := false, berr := false }

/-- The machine right after reset (10_state.md R42, 70_reset_and_hazards.md R240), with no operation waiting and no value
read. -/
def State.reset : State :=
  { acc16 := 0x0000#16
    acc7 := 0x00#8
    tbl16 := Vector.replicate 256 0x0000#16
    tbl7 := Vector.replicate 256 0x00#8
    status := Status.reset
    order := .big
    pending := []
    reads := [] }

/-- The block never stops: an error is a STATUS bit, and "The block then accepts the next host operation as usual"
(60_exceptions.md R210; 70_reset_and_hazards.md R249: "it never stops accepting operations"). So there is no fault to
name, and none can be raised. Safe. -/
inductive Fault where
deriving DecidableEq, Repr

/-- Why the model would give no meaning. -/
inductive Refusal where
  /-- Raised by exec's arm of an instruction that has no meaning yet. No arm raises it now. Safe: the model stops where
  the hardware goes on. -/
  | notModelled (mnemonic : String)
deriving DecidableEq, Repr

end Sys2Proof.Machine
end

