-- ==== Sys2Proof/Machine/Flags.lean ====
section
/-! DEFINITION. Everything that sets, clears or lays out a STATUS field (10_state.md R29, 60_exceptions.md R211). -/

namespace Sys2Proof.Machine

/-- STATUS as the 32 bits a host reads at offset 0x004 (R29): 10 BERR, 9 GATE, 8 ILL, 6:4 VIDX, 2 VFAIL, 1 V7, 0 V16,
every other bit reserved and 0. -/
def Status.word (f : Status) : Word :=
  0#21 ++ BitVec.ofBool f.berr ++ BitVec.ofBool f.gate ++ BitVec.ofBool f.ill ++ 0#1 ++ f.vidx ++ 0#1 ++
    BitVec.ofBool f.vfail ++ BitVec.ofBool f.v7 ++ BitVec.ofBool f.v16

/-- The sticky bit of an error becomes 1; an error whose bit is already 1 changes nothing (R217, R219). -/
def Status.record (f : Status) : Error → Status
  | .ill => { f with ill := true }
  | .gate => { f with gate := true }
  | .berr => { f with berr := true }

/-- CLRERR's effect (44_system.md R201): "STATUS.ILL <- 0 ; STATUS.GATE <- 0 ; STATUS.BERR <- 0". -/
def Status.clearSticky (f : Status) : Status := { f with ill := false, gate := false, berr := false }

/-- `STATUS.V16 <- 0` (40_table_builder.md R100, R105). -/
def Status.close16 (f : Status) : Status := { f with v16 := false }

/-- `STATUS.V7 <- 0` (40_table_builder.md R102, R106). -/
def Status.close7 (f : Status) : Status := { f with v7 := false }

/-- The start of a VERIFY (42_verifier.md R161): the V bits its set covers, VFAIL and VIDX go to 0. -/
def Status.beginVerify (s16 s7 : Bool) (f : Status) : Status :=
  { f with
    v16 := if s16 then false else f.v16
    v7 := if s7 then false else f.v7
    vfail := false
    vidx := 0#3 }

/-- A mismatch at vector `k` (R161): `STATUS.VFAIL <- 1 ; STATUS.VIDX <- k`. -/
def Status.failAt (k : BitVec 3) (f : Status) : Status := { f with vfail := true, vidx := k }

/-- A VERIFY that ran to its end without a mismatch (R161): the V bits its set covers go to 1. -/
def Status.openGates (s16 s7 : Bool) (f : Status) : Status :=
  { f with
    v16 := if s16 then true else f.v16
    v7 := if s7 then true else f.v7 }

/-- CTRL.ORDER from bit 0 of a CTRL write (R30): 0 = big-endian, 1 = little-endian. -/
def ByteOrder.ofBit (b : Bool) : ByteOrder := if b then .little else .big

/-- CTRL.ORDER as its bit (R30). -/
def ByteOrder.bit : ByteOrder → BitVec 1
  | .big => 0#1
  | .little => 1#1

end Sys2Proof.Machine
end

