-- ==== Sys2Proof/Machine/Ops.lean ====
section
/-! DEFINITION. The named operations over the state: one writer per field, table access, the value a read returns, and
raising an error (the block's only kind of exception) with the clearing of errors beside it. -/

namespace Sys2Proof.Machine

/-- POLY16 (00_scope.md R7): CRC-16-CCITT. -/
def poly16 : Half := 0x1021#16

/-- POLY7 (00_scope.md R7): CRC-7, SD-card variant. -/
def poly7 : Byte := 0x89#8

/-- `ACC16 <- v` (00_scope.md R12). -/
def State.withAcc16 (v : Half) (s : State) : State := { s with acc16 := v }

/-- `ACC7 <- v` (00_scope.md R12). -/
def State.withAcc7 (v : Byte) (s : State) : State := { s with acc7 := v }

/-- The whole of TBL16 replaced. -/
def State.withTbl16 (t : Table16) (s : State) : State := { s with tbl16 := t }

/-- The whole of TBL7 replaced. -/
def State.withTbl7 (t : Table7) (s : State) : State := { s with tbl7 := t }

/-- The STATUS fields replaced. -/
def State.withStatus (f : Status) (s : State) : State := { s with status := f }

/-- `CTRL.ORDER <- o` (10_state.md R30). -/
def State.withOrder (o : ByteOrder) (s : State) : State := { s with order := o }

/-- The operations still to be performed replaced. -/
def State.withPending (p : List Input) (s : State) : State := { s with pending := p }

/-- A host read returns `v` (00_scope.md R9). -/
def State.reply (v : ReadValue) (s : State) : State := { s with reads := s.reads ++ [v] }

/-- `TBL16[i]` (00_scope.md R12). -/
def Table16.read (t : Table16) (i : Byte) : Half := t[i.toNat]'i.isLt

/-- `TBL16[i] <- v` (00_scope.md R12). -/
def Table16.write (t : Table16) (i : Byte) (v : Half) : Table16 := t.set i.toNat v i.isLt

/-- `TBL7[i]` (00_scope.md R12). -/
def Table7.read (t : Table7) (i : Byte) : Byte := t[i.toNat]'i.isLt

/-- `TBL7[i] <- v` (00_scope.md R12). -/
def Table7.write (t : Table7) (i : Byte) (v : Byte) : Table7 := t.set i.toNat v i.isLt

/-- `raise ILL()`, `raise GATE()`, `raise BERR()` (00_scope.md R12, 60_exceptions.md R219): set the sticky bit, "saves no
state, switches no mode and changes no mask. It jumps nowhere". -/
def raise (e : Error) (s : State) : State := s.withStatus (s.status.record e)

/-- What stands for a return (60_exceptions.md R220): "There is no return operation. ILL, GATE and BERR stay 1 until
CLRERR ... or reset". -/
def clearErrors (s : State) : State := s.withStatus s.status.clearSticky

/-- Reset (70_reset_and_hazards.md R240): every piece of R20's state at its reset value. What the host has still to do and
what it has already read are no state of the block and stay. -/
def resetBlock (s : State) : State := { State.reset with pending := s.pending, reads := s.reads }

end Sys2Proof.Machine
end

