-- ==== Sys2Proof/Machine/Codec.lean ====
section
/-! DEFINITION. The reference codec family: SET16, SET7, UPD16, UPD7, finalization and digests
(41_reference_codec.md). R137: each function is defined once here and every user calls it. -/

namespace Sys2Proof.Machine

/-- `upd16(T, c, b) = T[((c >> 8) ^ b) & 0xFF] ^ (c << 8)[15:0]` (R132). -/
def upd16 (t : Table16) (c : Half) (b : Byte) : Half :=
  Table16.read t ((c >>> 8).setWidth 8 ^^^ b) ^^^ (c <<< 8)

/-- `upd7(T, c, b) = T[((c << 1) ^ b) & 0xFF]` (R133): the index is truncated to 8 bits. -/
def upd7 (t : Table7) (c : Byte) (b : Byte) : Byte := Table7.read t ((c <<< 1) ^^^ b)

/-- `fin7(c) = ((c << 1) | 1)[7:0]` (R134). -/
def fin7 (c : Byte) : Byte := (c <<< 1) ||| 1#8

/-- `digest16` (R135): the fold of upd16 from 0x0000, with no finalization (R136). -/
def digest16 (t : Table16) (m : List Byte) : Half := m.foldl (upd16 t) 0x0000#16

/-- `digest7` (R135): the fold of upd7 from 0x00, finalized. -/
def digest7 (t : Table7) (m : List Byte) : Byte := fin7 (m.foldl (upd7 t) 0x00#8)

/-- SET16 (R130): `ACC16 <- imm16`. -/
def execSet16 (imm16 : Half) (s : State) : Host.Outcome State Fault Refusal := .next (s.withAcc16 imm16)

/-- SET7 (R131): `ACC7 <- imm8`, all 8 bits held. -/
def execSet7 (imm8 : Byte) (s : State) : Host.Outcome State Fault Refusal := .next (s.withAcc7 imm8)

/-- UPD16 (R132): `ACC16 <- upd16(TBL16, ACC16, b)`, whatever TBL16 holds. -/
def execUpd16 (b : Byte) (s : State) : Host.Outcome State Fault Refusal := .next (s.withAcc16 (upd16 s.tbl16 s.acc16 b))

/-- UPD7 (R133): `ACC7 <- upd7(TBL7, ACC7, b)`, whatever TBL7 holds. -/
def execUpd7 (b : Byte) (s : State) : Host.Outcome State Fault Refusal := .next (s.withAcc7 (upd7 s.tbl7 s.acc7 b))

end Sys2Proof.Machine
end

