-- ==== Sys2Proof/Machine/System.lean ====
section
/-! DEFINITION. The system family: NOP and CLRERR (44_system.md). -/

namespace Sys2Proof.Machine

/-- NOP (R200): "leaves the whole state unchanged". -/
def execNop (s : State) : Host.Outcome State Fault Refusal := .next s

/-- CLRERR (R201). -/
def execClrerr (s : State) : Host.Outcome State Fault Refusal := .next (clearErrors s)

end Sys2Proof.Machine
end

