-- ==== Sys2Proof/Machine/TableBuilder.lean ====
section
/-! DEFINITION. The table builder family: BUILD16, BUILD7, WR16, WR7 (40_table_builder.md). -/

namespace Sys2Proof.Machine

/-- One round of BUILD16 (R100): "if r[15] == 1: r <- (r << 1)[15:0] ^ 0x1021, else: r <- (r << 1)[15:0]". -/
def round16 (r : Half) : Half := if r.msb then (r <<< 1) ^^^ poly16 else r <<< 1

/-- The value BUILD16 writes at index `i` (R100): 8 rounds from `i[7:0] ++ 0x00`. -/
def entry16 (i : Byte) : Half := Nat.iterate round16 8 (i ++ 0x00#8)

/-- "if r[7] == 1: r <- r ^ 0x89" (R102). -/
def reduce7 (r : Byte) : Byte := if r.msb then r ^^^ poly7 else r

/-- One round of BUILD7 (R102): shift within 8 bits first, then the test of bit 7 and the XOR. -/
def round7 (r : Byte) : Byte := reduce7 (r <<< 1)

/-- The value BUILD7 writes at index `i` (R102): the seed reduced, then 7 rounds. -/
def entry7 (i : Byte) : Byte := Nat.iterate round7 7 (reduce7 i)

/-- TBL16 after BUILD16: all 256 entries (R100). Irreducible, so that no unification computes the table. -/
@[irreducible] def built16 : Table16 := Vector.ofFn fun i : Fin 256 => entry16 (BitVec.ofFin i)

/-- TBL7 after BUILD7: all 256 entries (R102). Irreducible, as `built16`. -/
@[irreducible] def built7 : Table7 := Vector.ofFn fun i : Fin 256 => entry7 (BitVec.ofFin i)

/-- BUILD16 (R100). -/
def execBuild16 (s : State) : Host.Outcome State Fault Refusal :=
  .next ((s.withTbl16 built16).withStatus s.status.close16)

/-- BUILD7 (R102). -/
def execBuild7 (s : State) : Host.Outcome State Fault Refusal :=
  .next ((s.withTbl7 built7).withStatus s.status.close7)

/-- WR16 (R105): V16 goes to 0 "even when imm16 equals the old entry". -/
def execWr16 (idx : Byte) (imm16 : Half) (s : State) : Host.Outcome State Fault Refusal :=
  .next ((s.withTbl16 (Table16.write s.tbl16 idx imm16)).withStatus s.status.close16)

/-- WR7 (R106). -/
def execWr7 (idx : Byte) (imm8 : Byte) (s : State) : Host.Outcome State Fault Refusal :=
  .next ((s.withTbl7 (Table7.write s.tbl7 idx imm8)).withStatus s.status.close7)

end Sys2Proof.Machine
end

