-- ==== Sys2Proof/Machine/Verifier.lean ====
section
/-! DEFINITION. The verifier family: the constant VROM and VERIFY (42_verifier.md). -/

namespace Sys2Proof.Machine

/-- A known-answer vector (00_scope.md R13): a message and its expected digest, of one of the two variants. -/
inductive KnownAnswer where
  | crc16 (message : List Byte) (expected : Half)
  | crc7 (message : List Byte) (expected : Byte)
deriving DecidableEq, Repr

/-- VROM (R160): the six vectors with their indices, in index order. -/
def vrom : List (BitVec 3 × KnownAnswer) :=
  [ (0#3, .crc16 (List.replicate 512 0xFF#8) 0x7FA1#16),
    (1#3, .crc7 [0x40#8, 0x00#8, 0x00#8, 0x00#8, 0x00#8] 0x95#8),
    (2#3, .crc7 [0x48#8, 0x00#8, 0x00#8, 0x01#8, 0xAA#8] 0x87#8),
    (3#3, .crc7 [0x69#8, 0x40#8, 0x00#8, 0x00#8, 0x00#8] 0x77#8),
    (4#3, .crc7 [0x77#8, 0x00#8, 0x00#8, 0x00#8, 0x00#8] 0x65#8),
    (5#3, .crc7 [0x7A#8, 0x00#8, 0x00#8, 0x00#8, 0x00#8] 0xFD#8) ]

/-- Does the set cover CRC16 (R161)? -/
def covers16 (set : BitVec 2) : Bool := set == 0#2 || set == 1#2

/-- Does the set cover CRC7 (R161)? -/
def covers7 (set : BitVec 2) : Bool := set == 0#2 || set == 2#2

/-- A vector that the set skips (R161). -/
def KnownAnswer.covered (set : BitVec 2) : KnownAnswer → Bool
  | .crc16 _ _ => covers16 set
  | .crc7 _ _ => covers7 set

/-- `d != e` (R161): the digest by the current table differs from the expected one. -/
def KnownAnswer.mismatch (t16 : Table16) (t7 : Table7) : KnownAnswer → Bool
  | .crc16 m e => digest16 t16 m != e
  | .crc7 m e => digest7 t7 m != e

/-- The number of bytes of a vector's message. -/
def KnownAnswer.length : KnownAnswer → Nat
  | .crc16 m _ => m.length
  | .crc7 m _ => m.length

/-- The loop of R161 over vectors in order: skip those the set does not cover, end at the first mismatch (R162). -/
def firstMismatch (set : BitVec 2) (t16 : Table16) (t7 : Table7) :
    List (BitVec 3 × KnownAnswer) → Option (BitVec 3)
  | [] => none
  | (k, v) :: rest =>
    if v.covered set && v.mismatch t16 t7 then some k else firstMismatch set t16 t7 rest

/-- How many message bytes the loop of `firstMismatch` folds before it ends (20_memory.md R67): the message of every vector
that it does not skip, the first mismatching one's included. The count is no state (10_state.md R38), so no step reads it. -/
def foldedBytes (set : BitVec 2) (t16 : Table16) (t7 : Table7) : List (BitVec 3 × KnownAnswer) → Nat
  | [] => 0
  | (_, v) :: rest =>
    if v.covered set then
      v.length + if v.mismatch t16 t7 then 0 else foldedBytes set t16 t7 rest
    else foldedBytes set t16 t7 rest

/-- What a legal VERIFY leaves in STATUS (R161). -/
def verifiedStatus (set : BitVec 2) (t16 : Table16) (t7 : Table7) (f : Status) : Status :=
  let f0 := f.beginVerify (covers16 set) (covers7 set)
  match firstMismatch set t16 t7 vrom with
  | some k => f0.failAt k
  | none => f0.openGates (covers16 set) (covers7 set)

/-- VERIFY (R161): only STATUS changes (R165). "ILL if `set == 3`", which no word decodes to (30_encoding.md R85). -/
def execVerify (set : BitVec 2) (s : State) : Host.Outcome State Fault Refusal :=
  .next (if set = 3#2 then raise .ill s else s.withStatus (verifiedStatus set s.tbl16 s.tbl7 s.status))

end Sys2Proof.Machine
end

