-- ==== Sys2Proof/Machine/Dispatch.lean ====
section
/-! DEFINITION. The one dispatch from a command to its meaning (30_encoding.md R84). -/

namespace Sys2Proof.Machine

def exec (i : Instr) (s : State) : Host.Outcome State Fault Refusal :=
  match i with
  | .nop => Sys2Proof.Machine.execNop s
  | .build16 => Sys2Proof.Machine.execBuild16 s
  | .build7 => Sys2Proof.Machine.execBuild7 s
  | .set16 imm16 => Sys2Proof.Machine.execSet16 imm16 s
  | .set7 imm8 => Sys2Proof.Machine.execSet7 imm8 s
  | .upd16 b => Sys2Proof.Machine.execUpd16 b s
  | .upd7 b => Sys2Proof.Machine.execUpd7 b s
  | .verify set => Sys2Proof.Machine.execVerify set s
  | .wr16 idx imm16 => Sys2Proof.Machine.execWr16 idx imm16 s
  | .wr7 idx imm8 => Sys2Proof.Machine.execWr7 idx imm8 s
  | .clrerr => Sys2Proof.Machine.execClrerr s

end Sys2Proof.Machine
end

