-- ==== Sys2Proof/Machine/Emission.lean ====
section
/-! DEFINITION. The emission family: reads of WIN16 and WIN7, the byte placement of WIN16, and the CTRL write
(43_emission.md). These are host operations, not commands. -/

namespace Sys2Proof.Machine

/-- `wbyte(v, half, ORDER)` (R181); `odd` is `half == 1`. -/
def wbyte (v : Half) (odd : Bool) (order : ByteOrder) : Byte :=
  match order, odd with
  | .big, false => v.extractLsb' 8 8
  | .big, true => v.extractLsb' 0 8
  | .little, false => v.extractLsb' 0 8
  | .little, true => v.extractLsb' 8 8

/-- The byte an open WIN16 shows at byte offset `k` (R180): `e <- k >> 1`, `wbyte(TBL16[e], k[0], CTRL.ORDER)`. -/
def win16Byte (t : Table16) (order : ByteOrder) (k : BitVec 9) : Byte :=
  wbyte (Table16.read t (k.extractLsb' 1 8)) (k.getLsbD 0) order

/-- A window read while the gate is closed (R183): "returns 0x00, sets STATUS.GATE, and changes nothing else". -/
def closedWindowRead (s : State) : State := (raise .gate s).reply (.byte 0x00#8)

/-- WIN16 read (R180). -/
def readWin16 (k : BitVec 9) (s : State) : State :=
  if s.status.v16 then s.reply (.byte (win16Byte s.tbl16 s.order k)) else closedWindowRead s

/-- WIN7 read (R182). -/
def readWin7 (k : Byte) (s : State) : State :=
  if s.status.v7 then s.reply (.byte (Table7.read s.tbl7 k)) else closedWindowRead s

/-- CTRL write (R184, 10_state.md R30): `CTRL.ORDER <- v[0]`, `v[31:1]` ignored. -/
def writeCtrl (v : Word) (s : State) : State := s.withOrder (ByteOrder.ofBit (v.getLsbD 0))

end Sys2Proof.Machine
end

