-- ==== Sys2Proof/Machine/Bus.lean ====
section
/-! DEFINITION. The host interface (20_memory.md): what stands at each offset, which accesses are legal, what each host
operation does, and reset. -/

namespace Sys2Proof.Machine

/-- What stands at an offset of the host space (R51). -/
inductive Target where
  | cmd
  | status
  | ctrl
  | acc16
  | acc7
  | dig7
  | param
  /-- WIN16, byte `k` of 512 -/
  | win16 (k : BitVec 9)
  /-- WIN7, byte `k` of 256 -/
  | win7 (k : Byte)
  /-- a reserved offset, or one inside a register's word that is not its own offset -/
  | unmapped
deriving DecidableEq, Repr

/-- The address map (R51). -/
def locate (off : Offset) : Target :=
  if off = 0x000#12 then .cmd
  else if off = 0x004#12 then .status
  else if off = 0x008#12 then .ctrl
  else if off = 0x00C#12 then .acc16
  else if off = 0x010#12 then .acc7
  else if off = 0x014#12 then .dig7
  else if off = 0x018#12 then .param
  else if 0x400#12 ≤ off ∧ off ≤ 0x5FF#12 then .win16 ((off - 0x400#12).setWidth 9)
  else if 0x600#12 ≤ off ∧ off ≤ 0x6FF#12 then .win7 ((off - 0x600#12).setWidth 8)
  else .unmapped

/-- PARAM (10_state.md R34): bits 15:0 POLY16, bits 23:16 POLY7, bits 31:24 = 0. -/
def paramWord : Word := 0x00#8 ++ poly7 ++ poly16

/-- What a 4-byte read of a readable register returns (10_state.md R29 to R34); none where R52 lists no such read. -/
def registerWord (s : State) : Target → Option Word
  | .status => some s.status.word
  | .ctrl => some (zext32 s.order.bit)
  | .acc16 => some (zext32 s.acc16)
  | .acc7 => some (zext32 s.acc7)
  | .dig7 => some (zext32 (fin7 s.acc7))
  | .param => some paramWord
  | .cmd => none
  | .win16 _ => none
  | .win7 _ => none
  | .unmapped => none

/-- A command word handed to the engine (10_state.md R28): a legal word runs, an illegal one does `raise ILL()` and
nothing else (30_encoding.md R85, 60_exceptions.md R212). -/
def runCommand (w : Word) (s : State) : Host.Outcome State Fault Refusal :=
  match decode w with
  | .ok i => exec i s
  | .error _ => .next (raise .ill s)

/-- `MemRead(off, 4)`: a register's value, else a bus error that returns 0 (R52, R53). -/
def read32 (off : Offset) (s : State) : State :=
  match registerWord s (locate off) with
  | some v => s.reply (.word v)
  | none => (raise .berr s).reply (.word 0#32)

/-- `MemRead(off, 1)`: a window byte, else a bus error that returns 0 (R52, R53). -/
def read8 (off : Offset) (s : State) : State :=
  match locate off with
  | .win16 k => readWin16 k s
  | .win7 k => readWin7 k s
  | .cmd | .status | .ctrl | .acc16 | .acc7 | .dig7 | .param | .unmapped =>
    (raise .berr s).reply (.byte 0x00#8)

/-- `MemWrite(off, 4, v)`: CMD or CTRL, else a bus error that discards the write (R52, R53). -/
def write32 (off : Offset) (v : Word) (s : State) : Host.Outcome State Fault Refusal :=
  match locate off with
  | .cmd => runCommand v s
  | .ctrl => .next (writeCtrl v s)
  | .status | .acc16 | .acc7 | .dig7 | .param | .win16 _ | .win7 _ | .unmapped => .next (raise .berr s)

/-- `MemWrite(off, 1, v)`: "no register read or write of width 1" and "no window write" (R52), so always a bus error that
discards the value. -/
def write8 (_off : Offset) (_v : Byte) (s : State) : State := raise .berr s

/-- One host access, performed completely, with the command it starts (R62, R67). -/
def perform (a : Access) (s : State) : Host.Outcome State Fault Refusal :=
  match a with
  | .rd32 off => .next (read32 off s)
  | .rd8 off => .next (read8 off s)
  | .wr32 off v => write32 off v s
  | .wr8 off v => .next (write8 off v s)

/-- One operation of the outside world. A reset keeps nothing, and none of the accesses it abandons is performed
(70_reset_and_hazards.md R240, R241). -/
def serve (op : Input) (s : State) : Host.Outcome State Fault Refusal :=
  match op with
  | .host a => perform a s
  | .reset _abandoned => .next (resetBlock s)

/-- The access by which a host hands a command word to the engine (R52, 30_encoding.md R88: `MemWrite(0x000, 4, word)`). -/
def commandWrite (w : Word) : Input := .host (.wr32 0x000#12 w)

/-- The host address of an offset (R50): BLOCK_BASE + offset. -/
def hostAddress (off : Offset) : Nat := Config.blockBase + off.toNat

/-- The offset a host address reaches; none where it lies outside the block's 4096 offsets (R50). -/
def offsetOf (address : Nat) : Option Offset :=
  if Config.blockBase ≤ address ∧ address < Config.blockBase + 4096
  then some (BitVec.ofNat 12 (address - Config.blockBase)) else none

/-- How long the host interface is held while a command runs from `s`, in the OPEN latencies (00_scope.md R7, R248). No
step reads it. -/
def latency (i : Instr) (s : State) : Nat :=
  match i with
  | .build16 => Config.latBuild16
  | .build7 => Config.latBuild7
  | .verify set => Config.latVerify set (firstMismatch set s.tbl16 s.tbl7 vrom)
  | .nop | .set16 _ | .set7 _ | .upd16 _ | .upd7 _ | .wr16 _ _ | .wr7 _ _ | .clrerr => Config.latCmd

end Sys2Proof.Machine
end

