-- ==== Sys2Proof/Machine/Step.lean ====
section
/-! DEFINITION. One step: one operation of the outside world, the next in order (00_scope.md R9: "Each operation is one
step"; 20_memory.md R62). -/

namespace Sys2Proof.Machine

/-- The next operation is taken off the list and performed. With none waiting the block stays as it is: "The engine
starts nothing by itself" (00_scope.md R8). -/
def step (s : State) : Host.Outcome State Fault Refusal :=
  match s.pending with
  | [] => .next s
  | op :: rest => serve op (s.withPending rest)

/-- `s` with the write of a command word to CMD as the very next host operation (10_state.md R23, R28: the block fetches
nothing, the host's write order is the program). -/
def State.withFetchWord (s : State) (nbits w : Nat) : State :=
  s.withPending (commandWrite (tableWord nbits w) :: s.pending)

end Sys2Proof.Machine
end

