-- ==== Sys2Proof/Machine/Script.lean ====
section
/-! DEFINITION. The command script as data: its lines and pseudo-commands, and the host operations each stands for
(30_encoding.md R88, R89). The characters of a line are host software and are not modelled (92_eei_decisions.md D29). -/

namespace Sys2Proof.Machine

/-- The registers that `rd` and `wr` name (R88). -/
inductive ScriptReg where
  | status
  | ctrl
  | acc16
  | acc7
  | dig7
  | param
  | cmd
deriving DecidableEq, Repr

/-- `off(REG)` (R88, 20_memory.md R51). -/
def ScriptReg.offset : ScriptReg → Offset
  | .cmd => 0x000#12
  | .status => 0x004#12
  | .ctrl => 0x008#12
  | .acc16 => 0x00C#12
  | .acc7 => 0x010#12
  | .dig7 => 0x014#12
  | .param => 0x018#12

/-- The operands of `VERIFY` (R88): ALL, 16 or 7, and no other. -/
inductive VerifyName where
  | all
  | only16
  | only7
deriving DecidableEq, Repr

/-- The `set` field of a VERIFY operand (R88: the words 0x70000000, 0x70000001 and 0x70000002). -/
def VerifyName.set : VerifyName → BitVec 2
  | .all => 0#2
  | .only16 => 1#2
  | .only7 => 2#2

/-- One line of a script (R88); a number is as the script writes it, of any size. -/
inductive ScriptLine where
  | nop
  | build16
  | build7
  | set16 (imm16 : Nat)
  | set7 (imm8 : Nat)
  | upd16 (b : Nat)
  | upd7 (b : Nat)
  | verify (name : VerifyName)
  | wr16 (idx imm16 : Nat)
  | wr7 (idx imm8 : Nat)
  | clrerr
  /-- `.word w` -/
  | word (w : Nat)
  /-- `rd REG` -/
  | rd (reg : ScriptReg)
  /-- `wr REG, v` -/
  | wr (reg : ScriptReg) (v : Nat)
  /-- `rdb WIN16+k` -/
  | rdbWin16 (k : Nat)
  /-- `rdb WIN7+k` -/
  | rdbWin7 (k : Nat)
deriving DecidableEq, Repr

/-- "It never truncates" (R88): `x` when every condition on the operands holds, else the assembler refuses the line. -/
def whenFits (fits : Bool) (x : Input) : Option Input := if fits then some x else none

/-- A command line stands for `MemWrite(0x000, 4, word)` (R88). -/
def commandLine (i : Instr) : Input := commandWrite (encode i)

/-- The host operation a line stands for; none where "an operand ... does not fit its field" (R88). -/
def assembleLine : ScriptLine → Option Input
  | .nop => some (commandLine .nop)
  | .build16 => some (commandLine .build16)
  | .build7 => some (commandLine .build7)
  | .set16 v => whenFits (decide (v ≤ 0xFFFF)) (commandLine (.set16 (BitVec.ofNat 16 v)))
  | .set7 v => whenFits (decide (v ≤ 0xFF)) (commandLine (.set7 (BitVec.ofNat 8 v)))
  | .upd16 b => whenFits (decide (b ≤ 0xFF)) (commandLine (.upd16 (BitVec.ofNat 8 b)))
  | .upd7 b => whenFits (decide (b ≤ 0xFF)) (commandLine (.upd7 (BitVec.ofNat 8 b)))
  | .verify name => some (commandLine (.verify name.set))
  | .wr16 idx v =>
    whenFits (decide (idx ≤ 0xFF ∧ v ≤ 0xFFFF)) (commandLine (.wr16 (BitVec.ofNat 8 idx) (BitVec.ofNat 16 v)))
  | .wr7 idx v =>
    whenFits (decide (idx ≤ 0xFF ∧ v ≤ 0xFF)) (commandLine (.wr7 (BitVec.ofNat 8 idx) (BitVec.ofNat 8 v)))
  | .clrerr => some (commandLine .clrerr)
  | .word w => whenFits (decide (w ≤ 0xFFFFFFFF)) (commandWrite (BitVec.ofNat 32 w))
  | .rd reg => some (.host (.rd32 reg.offset))
  | .wr reg v => whenFits (decide (v ≤ 0xFFFFFFFF)) (.host (.wr32 reg.offset (BitVec.ofNat 32 v)))
  | .rdbWin16 k => whenFits (decide (0x400 + k ≤ 0xFFF)) (.host (.rd8 (BitVec.ofNat 12 (0x400 + k))))
  | .rdbWin7 k => whenFits (decide (0x600 + k ≤ 0xFFF)) (.host (.rd8 (BitVec.ofNat 12 (0x600 + k))))

/-- A script: every line in order, refused where one line is. -/
def assembleScript : List ScriptLine → Option (List Input)
  | [] => some []
  | l :: ls =>
    match assembleLine l, assembleScript ls with
    | some op, some ops => some (op :: ops)
    | _, _ => none

/-- The pseudo-commands (R89). -/
inductive Pseudo where
  | clr16
  | clr7
  | init
  | digest16 (bytes : List Nat)
  | digest7 (bytes : List Nat)
  | peek16 (i : Nat)
  | peek7 (i : Nat)
deriving DecidableEq, Repr

/-- The expansion of a pseudo-command (R89). -/
def Pseudo.lines : Pseudo → List ScriptLine
  | .clr16 => [.set16 0x0000]
  | .clr7 => [.set7 0x00]
  | .init => [.build16, .build7, .verify .all]
  | .digest16 bytes => .set16 0x0000 :: bytes.map .upd16 ++ [.rd .acc16]
  | .digest7 bytes => .set7 0x00 :: bytes.map .upd7 ++ [.rd .dig7]
  | .peek16 i => [.set16 0x0000, .upd16 i, .rd .acc16]
  | .peek7 i => [.set7 0x00, .upd7 i, .rd .acc7]

end Sys2Proof.Machine
end

