-- ==== Sys2Proof/Safety.lean ====
section
/-! DEFINITION. The terms claims are stated in: which words and accesses the spec calls legal, what an open gate promises,
and what a step keeps. Each is written from the spec's own table or sentence, not from the definitions of the machine. -/

namespace Sys2Proof

open Machine

/-- 30_encoding.md R85, with the must-be-zero bits of R82's rows as masks (the bits of 27:0 that a row leaves unused). -/
def IllegalWord (w : Word) : Prop :=
  let op := (w >>> 28).toNat
  11 ≤ op ∨
  (op = 0 ∨ op = 1 ∨ op = 2 ∨ op = 10) ∧ w &&& 0x0FFFFFFF#32 ≠ 0#32 ∨
  op = 3 ∧ w &&& 0x0FFF0000#32 ≠ 0#32 ∨
  (op = 4 ∨ op = 5 ∨ op = 6) ∧ w &&& 0x0FFFFF00#32 ≠ 0#32 ∨
  op = 7 ∧ (w &&& 0x0FFFFFFC#32 ≠ 0#32 ∨ w &&& 0x3#32 = 3#32) ∨
  op = 8 ∧ w &&& 0x0F000000#32 ≠ 0#32 ∨
  op = 9 ∧ w &&& 0x0F00FF00#32 ≠ 0#32

/-- The legal accesses of 20_memory.md R52, row by row. -/
def ListedAccess : Access → Prop
  | .wr32 off _ => off.toNat = 0x000 ∨ off.toNat = 0x008
  | .rd32 off =>
    off.toNat = 0x004 ∨ off.toNat = 0x008 ∨ off.toNat = 0x00C ∨ off.toNat = 0x010 ∨ off.toNat = 0x014 ∨ off.toNat = 0x018
  | .rd8 off => 0x400 ≤ off.toNat ∧ off.toNat ≤ 0x5FF ∨ 0x600 ≤ off.toNat ∧ off.toNat ≤ 0x6FF
  | .wr8 _ _ => False

/-- What an access that R52 does not list returns (R53): a read gives 0 of its width, a write nothing. -/
def refusedReply : Access → List ReadValue
  | .rd32 _ => [.word 0#32]
  | .rd8 _ => [.byte 0x00#8]
  | .wr32 _ _ => []
  | .wr8 _ _ => []

/-- The accesses that return a value (R52, direction "read"). -/
def isRead : Access → Bool
  | .rd32 _ => true
  | .rd8 _ => true
  | .wr32 _ _ => false
  | .wr8 _ _ => false

/-- A run of `n` steps (00_scope.md R9: "Each operation is one step"). -/
def run (n : Nat) (s : State) : Host.Outcome State Fault Refusal := core.run n s

/-- What writing the word `w` to CMD does (10_state.md R28): as one step, whatever waits behind it, the state's fields
become those of `f s`. -/
def CommandDoes (w : Word) (f : State → State) : Prop :=
  ∀ s rest, step { s with pending := .host (.wr32 0x000#12 w) :: rest } = .next { f s with pending := rest }

/-- "does `STATUS.ILL <- 1` and nothing else" (60_exceptions.md R212). -/
def RefusedAsIllegal (w : Word) : Prop :=
  CommandDoes w fun s => { s with status := { s.status with ill := true } }

/-- What one host access does, as one step, whatever waits behind it. -/
def AccessDoes (a : Access) (f : State → State) : Prop :=
  ∀ s rest, step { s with pending := .host a :: rest } = .next { f s with pending := rest }

/-- "A write is a bus error" (10_state.md R31 to R34), for every value and both widths (20_memory.md R53). -/
def WriteIsBusError (off : Offset) : Prop :=
  (∀ v, AccessDoes (.wr32 off v) fun s => { s with status := { s.status with berr := true } }) ∧
  (∀ v, AccessDoes (.wr8 off v) fun s => { s with status := { s.status with berr := true } })

/-- TBL16 gives vector 0's digest (42_verifier.md R160): 512 bytes of 0xFF give 0x7FA1. -/
def Passes16 (t : Table16) : Prop := digest16 t (List.replicate 512 0xFF#8) = 0x7FA1#16

/-- TBL7 gives the digest of a CRC7 vector (R160): vectors 1 to 5 are numbered 0 to 4 here. -/
def Vector7Passes (t : Table7) : Fin 5 → Prop
  | 0 => digest7 t [0x40#8, 0x00#8, 0x00#8, 0x00#8, 0x00#8] = 0x95#8
  | 1 => digest7 t [0x48#8, 0x00#8, 0x00#8, 0x01#8, 0xAA#8] = 0x87#8
  | 2 => digest7 t [0x69#8, 0x40#8, 0x00#8, 0x00#8, 0x00#8] = 0x77#8
  | 3 => digest7 t [0x77#8, 0x00#8, 0x00#8, 0x00#8, 0x00#8] = 0x65#8
  | 4 => digest7 t [0x7A#8, 0x00#8, 0x00#8, 0x00#8, 0x00#8] = 0xFD#8

/-- TBL7 gives the digests of vectors 1 to 5. -/
def Passes7 (t : Table7) : Prop := ∀ j, Vector7Passes t j

/-- The tables give vector `k`'s digest, `k` the index of R160. -/
def VectorPasses (t16 : Table16) (t7 : Table7) (k : Fin 6) : Prop :=
  Fin.cases (Passes16 t16) (Vector7Passes t7) k

/-- The set covers CRC16 (42_verifier.md R161): `(set == 0) or (set == 1)`. -/
abbrev Covers16 (set : BitVec 2) : Prop := set = 0#2 ∨ set = 1#2

/-- The set covers CRC7 (R161): `(set == 0) or (set == 2)`. -/
abbrev Covers7 (set : BitVec 2) : Prop := set = 0#2 ∨ set = 2#2

/-- VERIFY with this set runs vector `k` (R161). -/
abbrev Runs (set : BitVec 2) (k : Fin 6) : Prop := k = 0 ∧ Covers16 set ∨ k ≠ 0 ∧ Covers7 set

/-- The number of message bytes of vector `k` (R160). -/
def messageLength (k : Fin 6) : Nat := if k = 0 then 512 else 5

/-- Folding the message `m` from 0 looks entry `i` of TBL16 up: `i` is the index that UPD16 of some byte of `m` uses, after the
bytes before it (41_reference_codec.md R132: `((c >> 8) ^ b) & 0xFF`; R135). -/
def LooksUp16 (t : Table16) (m : List Byte) (i : Byte) : Prop :=
  ∃ pre b post, m = pre ++ b :: post ∧ i = (pre.foldl (upd16 t) 0x0000#16).extractLsb' 8 8 ^^^ b

/-- The entries of TBL7 that vectors 1 to 5 look up in the built table ("exactly these 25 TBL7 indices",
95_test_vectors.md section 3.3). -/
def reached7 : List Byte :=
  [0x0E#8, 0x19#8, 0x1A#8, 0x20#8, 0x2A#8, 0x2E#8, 0x40#8, 0x48#8, 0x50#8, 0x58#8, 0x69#8, 0x6A#8, 0x6E#8, 0x77#8, 0x78#8,
    0x7A#8, 0x92#8, 0x98#8, 0xA8#8, 0xC8#8, 0xCC#8, 0xD0#8, 0xDA#8, 0xE0#8, 0xFA#8]

/-- Entries of TBL16 that vector 0 does not look up in the built table (95_test_vectors.md section 3.3: "The 42 it never looks
up include" these). -/
def namedUnreached16 : List Byte :=
  [0x07#8, 0x09#8, 0x0A#8, 0x0B#8, 0x0F#8, 0x1B#8, 0x1E#8, 0x1F#8, 0x27#8, 0x28#8]

/-- "an open window shows only verified contents" (42_verifier.md R163; 10_state.md R29, the meanings of V16 and V7). -/
def GatesSound (s : State) : Prop :=
  (s.status.v16 = true → Passes16 s.tbl16) ∧ (s.status.v7 = true → Passes7 s.tbl7)

/-- 10_state.md R29: VIDX is "0 when VFAIL = 0" and "never 6 or 7". -/
def ResultLegal (s : State) : Prop :=
  (s.status.vfail = false → s.status.vidx = 0#3) ∧ s.status.vidx.toNat ≤ 5

/-- The CRC7 side holds 7-bit values only: every TBL7 entry and ACC7 is below 0x80 (40_table_builder.md R103). -/
def SevenBit (s : State) : Prop := (∀ i, (Table7.read s.tbl7 i).toNat < 0x80) ∧ s.acc7.toNat < 0x80

/-- The next operation of `s` hands the legal command `i` to the engine (10_state.md R28). -/
def NextCommand (s : State) (i : Instr) : Prop :=
  ∃ w rest, s.pending = .host (.wr32 0x000#12 w) :: rest ∧ decode w = .ok i

/-- The next operation of `s` is a reset (70_reset_and_hazards.md R240). -/
def NextReset (s : State) : Prop := ∃ abandoned rest, s.pending = .reset abandoned :: rest

/-- The byte reads of the offsets `base`, `base + 1`, ..., `base + n - 1`, in order (43_emission.md R186). -/
def windowReads (base n : Nat) : List Input :=
  (List.range n).map fun k => .host (.rd8 (BitVec.ofNat 12 (base + k)))

/-- The binary artifact (43_emission.md R186): entry after entry in index order, 2 bytes each, in the target order. -/
def artifact16 (t : Table16) (order : ByteOrder) : List Byte :=
  t.toList.flatMap fun v =>
    match order with
    | .big => [v.extractLsb' 8 8, v.extractLsb' 0 8]
    | .little => [v.extractLsb' 0 8, v.extractLsb' 8 8]

/-- The two bytes of every pair exchanged (43_emission.md R185: "every table entry is byte-swapped"). -/
def swapPairs : List Byte → List Byte
  | [] => []
  | [b] => [b]
  | a :: b :: rest => b :: a :: swapPairs rest

end Sys2Proof
end

