-- ==== Sys2Proof/Certificates/Slice0/Obligations.lean ====
section
/-! DEFINITION. The statements for the provers. Each docstring names the rule or the passage of spec/ it formalises. A step
is written with the operation it performs at the front of `pending`, for every list of operations waiting behind it. -/

open Sys2Proof Sys2Proof.Machine

/-! ## Encoding (30_encoding.md) -/

/-- R80 to R82: no bit of a legal command is dropped by encoding and decoding it. -/
def Obligations.DecodeInvertsEncode : Prop :=
  ∀ i : Instr, i.WellFormed → decode (encode i) = .ok i

/-- R80, R82, R85: a word that decodes is the word of the command it decodes to, so each command has one word. -/
def Obligations.DecodedWordIsItsEncoding : Prop :=
  ∀ (w : Word) (i : Instr), decode w = .ok i → i.WellFormed ∧ encode i = w

/-- R82 (match and mask of each row) with R81 (which bits each operand is). -/
def Obligations.WordSelectsItsTableRow : Prop :=
  ∀ w : Word,
    (decode w = .ok .nop ↔ w &&& 0xFFFFFFFF#32 = 0x00000000#32) ∧
    (decode w = .ok .build16 ↔ w &&& 0xFFFFFFFF#32 = 0x10000000#32) ∧
    (decode w = .ok .build7 ↔ w &&& 0xFFFFFFFF#32 = 0x20000000#32) ∧
    (∀ imm16, decode w = .ok (.set16 imm16) ↔ w &&& 0xFFFF0000#32 = 0x30000000#32 ∧ imm16 = w.extractLsb' 0 16) ∧
    (∀ imm8, decode w = .ok (.set7 imm8) ↔ w &&& 0xFFFFFF00#32 = 0x40000000#32 ∧ imm8 = w.extractLsb' 0 8) ∧
    (∀ b, decode w = .ok (.upd16 b) ↔ w &&& 0xFFFFFF00#32 = 0x50000000#32 ∧ b = w.extractLsb' 0 8) ∧
    (∀ b, decode w = .ok (.upd7 b) ↔ w &&& 0xFFFFFF00#32 = 0x60000000#32 ∧ b = w.extractLsb' 0 8) ∧
    (∀ set, decode w = .ok (.verify set) ↔
      w &&& 0xFFFFFFFC#32 = 0x70000000#32 ∧ set = w.extractLsb' 0 2 ∧ set ≠ 3#2) ∧
    (∀ idx imm16, decode w = .ok (.wr16 idx imm16) ↔
      w &&& 0xFF000000#32 = 0x80000000#32 ∧ idx = w.extractLsb' 16 8 ∧ imm16 = w.extractLsb' 0 16) ∧
    (∀ idx imm8, decode w = .ok (.wr7 idx imm8) ↔
      w &&& 0xFF00FF00#32 = 0x90000000#32 ∧ idx = w.extractLsb' 16 8 ∧ imm8 = w.extractLsb' 0 8) ∧
    (decode w = .ok .clrerr ↔ w &&& 0xFFFFFFFF#32 = 0xA0000000#32)

/-- R212, with R85's list of the illegal words: an illegal word sets ILL and does nothing else, and every other word is a
legal command. -/
def Obligations.IllegalWordSetsIllOnly : Prop :=
  ∀ w : Word, (IllegalWord w → RefusedAsIllegal w) ∧ (¬ IllegalWord w → ∃ i, i.WellFormed ∧ decode w = .ok i)

/-- R85: "NOP (0x00000000) is the only encoding that executes as a no-op." Every other word changes some state. -/
def Obligations.NopIsTheOnlyNoOpWord : Prop :=
  ∀ w : Word, CommandDoes w (fun s => s) ↔ w = 0x00000000#32

/-- R88: the words of the script syntax, for one command of each shape. -/
def Obligations.ScriptWordsDecode : Prop :=
  decode 0x00000000#32 = .ok .nop ∧ decode 0x10000000#32 = .ok .build16 ∧ decode 0x20000000#32 = .ok .build7 ∧
  decode 0x30001234#32 = .ok (.set16 0x1234#16) ∧ decode 0x4000004A#32 = .ok (.set7 0x4A#8) ∧
  decode 0x50000056#32 = .ok (.upd16 0x56#8) ∧ decode 0x60000040#32 = .ok (.upd7 0x40#8) ∧
  decode 0x70000002#32 = .ok (.verify 2#2) ∧ decode 0x80FF1EF1#32 = .ok (.wr16 0xFF#8 0x1EF1#16) ∧
  decode 0x904000FF#32 = .ok (.wr7 0x40#8 0xFF#8) ∧ decode 0xA0000000#32 = .ok .clrerr

/-- R88: the host operation each line of the script syntax stands for, and that "An assembler refuses an operand that does not
fit its field ... It never truncates"; a script is its lines in order; R89: the words of CLR16, CLR7 and INIT. That scripts
are data with numbers of any size, and the refusals of `.word`, `wr` and `rdb`, for which the spec states no result, are the
model's choice (log entry 14). -/
def Obligations.ScriptLinesAssembleToTheirWords : Prop :=
  (assembleLine .nop = some (.host (.wr32 0x000#12 0x00000000#32))) ∧
  (assembleLine .build16 = some (.host (.wr32 0x000#12 0x10000000#32))) ∧
  (assembleLine .build7 = some (.host (.wr32 0x000#12 0x20000000#32))) ∧
  (∀ v, assembleLine (.set16 v) =
    if v ≤ 0xFFFF then some (.host (.wr32 0x000#12 (BitVec.ofNat 32 (0x30000000 + v)))) else none) ∧
  (∀ v, assembleLine (.set7 v) =
    if v ≤ 0xFF then some (.host (.wr32 0x000#12 (BitVec.ofNat 32 (0x40000000 + v)))) else none) ∧
  (∀ b, assembleLine (.upd16 b) =
    if b ≤ 0xFF then some (.host (.wr32 0x000#12 (BitVec.ofNat 32 (0x50000000 + b)))) else none) ∧
  (∀ b, assembleLine (.upd7 b) =
    if b ≤ 0xFF then some (.host (.wr32 0x000#12 (BitVec.ofNat 32 (0x60000000 + b)))) else none) ∧
  (assembleLine (.verify .all) = some (.host (.wr32 0x000#12 0x70000000#32))) ∧
  (assembleLine (.verify .only16) = some (.host (.wr32 0x000#12 0x70000001#32))) ∧
  (assembleLine (.verify .only7) = some (.host (.wr32 0x000#12 0x70000002#32))) ∧
  (∀ idx v, assembleLine (.wr16 idx v) =
    if idx ≤ 0xFF ∧ v ≤ 0xFFFF then
      some (.host (.wr32 0x000#12 (BitVec.ofNat 32 (0x80000000 + idx * 0x10000 + v)))) else none) ∧
  (∀ idx v, assembleLine (.wr7 idx v) =
    if idx ≤ 0xFF ∧ v ≤ 0xFF then
      some (.host (.wr32 0x000#12 (BitVec.ofNat 32 (0x90000000 + idx * 0x10000 + v)))) else none) ∧
  (assembleLine .clrerr = some (.host (.wr32 0x000#12 0xA0000000#32))) ∧
  (∀ w, assembleLine (.word w) =
    if w ≤ 0xFFFFFFFF then some (.host (.wr32 0x000#12 (BitVec.ofNat 32 w))) else none) ∧
  (∀ (reg : ScriptReg) (off : Offset),
    (reg, off) ∈ [(ScriptReg.cmd, 0x000#12), (.status, 0x004#12), (.ctrl, 0x008#12), (.acc16, 0x00C#12), (.acc7, 0x010#12),
      (.dig7, 0x014#12), (.param, 0x018#12)] →
    assembleLine (.rd reg) = some (.host (.rd32 off)) ∧
    ∀ v, assembleLine (.wr reg v) =
      if v ≤ 0xFFFFFFFF then some (.host (.wr32 off (BitVec.ofNat 32 v))) else none) ∧
  (∀ k, assembleLine (.rdbWin16 k) =
    if k ≤ 0xBFF then some (.host (.rd8 (0x400#12 + BitVec.ofNat 12 k))) else none) ∧
  (∀ k, assembleLine (.rdbWin7 k) =
    if k ≤ 0x9FF then some (.host (.rd8 (0x600#12 + BitVec.ofNat 12 k))) else none) ∧
  (∀ lines ops, assembleScript lines = some ops ↔ lines.map assembleLine = ops.map some) ∧
  (assembleScript Pseudo.clr16.lines = some [.host (.wr32 0x000#12 0x30000000#32)]) ∧
  (assembleScript Pseudo.clr7.lines = some [.host (.wr32 0x000#12 0x40000000#32)]) ∧
  (assembleScript Pseudo.init.lines =
    some [.host (.wr32 0x000#12 0x10000000#32), .host (.wr32 0x000#12 0x20000000#32),
      .host (.wr32 0x000#12 0x70000000#32)])

/-! ## Steps, ordering and reset -/

/-- 10_state.md R28: a 4-byte write to CMD of a word that decodes runs the command, and nothing else; a word that does not
decode is refused as illegal; a read of CMD, of either width, is a bus error that returns 0. -/
def Obligations.StepRunsTheDecodedCommand : Prop :=
  (∀ (s : State) (rest : List Input) (w : Word) (i : Instr), decode w = .ok i →
    step { s with pending := .host (.wr32 0x000#12 w) :: rest } = exec i { s with pending := rest }) ∧
  (∀ w : Word, (∀ i, decode w ≠ .ok i) → RefusedAsIllegal w) ∧
  (AccessDoes (.rd32 0x000#12) fun s =>
    { s with reads := s.reads ++ [.word 0#32], status := { s.status with berr := true } }) ∧
  (AccessDoes (.rd8 0x000#12) fun s =>
    { s with reads := s.reads ++ [.byte 0#8], status := { s.status with berr := true } })

/-- 20_memory.md R62: operations are performed one at a time, in order, each completely; what waits behind one has no
part in it. R62 speaks of host operations: that those issued after a reset stay waiting is the model's choice
(log entry 5), and so is that a step with none waiting changes nothing, from 00_scope.md R8 (log entry 2). -/
def Obligations.OperationsArePerformedInOrder : Prop :=
  (∀ s : State, s.pending = [] → step s = .next s) ∧
  ∀ (s : State) (op : Input), ∃ t : State, ∀ rest : List Input,
    step { s with pending := op :: rest } = .next { t with pending := rest }

/-- 00_scope.md R9: the values returned are kept in order; each read returns one value, nothing else returns any. The list that
keeps them is the model's own (log entry 3). -/
def Obligations.EachReadReturnsOneValue : Prop :=
  ∀ (s t : State) (op : Input) (rest : List Input), step { s with pending := op :: rest } = .next t →
    ∃ vs : List ReadValue, t.reads = s.reads ++ vs ∧
      vs.length = match op with
        | .host a => if isRead a then 1 else 0
        | .reset _ => 0

/-- 10_state.md R42: the state after reset (the fields the spec gives). -/
def Obligations.ResetStateIsAllZero : Prop :=
  State.reset.acc16 = 0x0000#16 ∧ State.reset.acc7 = 0x00#8 ∧
  (∀ i, Table16.read State.reset.tbl16 i = 0x0000#16) ∧ (∀ i, Table7.read State.reset.tbl7 i = 0x00#8) ∧
  State.reset.status =
    { v16 := false, v7 := false, vfail := false, vidx := 0#3, ill := false, gate := false, berr := false } ∧
  State.reset.order = .big

/-- 70_reset_and_hazards.md R240, R241: reset puts every piece of state to its reset value whatever was in progress. That
the values already read and the operations issued after the reset stay is the model's choice (log entries 3 and 5). -/
def Obligations.ResetAbandonsEverything : Prop :=
  ∀ (s : State) (abandoned : List Access) (rest : List Input),
    step { s with pending := .reset abandoned :: rest } =
      .next { State.reset with pending := rest, reads := s.reads }

/-! ## Host accesses (20_memory.md, 10_state.md) -/

/-- 20_memory.md R52: exactly the accesses of its table are free of bus errors. -/
def Obligations.OnlyUnlistedAccessesRaiseBerr : Prop :=
  ∀ (s : State) (a : Access) (rest : List Input), s.status.berr = false →
    ∃ t, step { s with pending := .host a :: rest } = .next t ∧ (t.status.berr = true ↔ ¬ ListedAccess a)

/-- 20_memory.md R53, 60_exceptions.md R213: the one effect of every access that R52 does not list. -/
def Obligations.UnlistedAccessReturnsZeroAndSetsBerr : Prop :=
  ∀ a : Access, ¬ ListedAccess a →
    AccessDoes a fun s => { s with reads := s.reads ++ refusedReply a, status := { s.status with berr := true } }

/-- 10_state.md R29 (the layout): the word a STATUS read returns; the read changes nothing (R59). -/
def Obligations.StatusReadShowsItsFields : Prop :=
  ∀ (s : State) (rest : List Input), ∃ w : Word,
    step { s with pending := .host (.rd32 0x004#12) :: rest } =
      .next { s with pending := rest, reads := s.reads ++ [.word w] } ∧
    w.getLsbD 0 = s.status.v16 ∧ w.getLsbD 1 = s.status.v7 ∧ w.getLsbD 2 = s.status.vfail ∧
    w.extractLsb' 4 3 = s.status.vidx ∧ w.getLsbD 8 = s.status.ill ∧ w.getLsbD 9 = s.status.gate ∧
    w.getLsbD 10 = s.status.berr ∧ w &&& 0xFFFFF888#32 = 0#32

/-- 10_state.md R31, R32, R34: the views of ACC16 and ACC7 and the constant PARAM; a write to one is a bus error. -/
def Obligations.RegisterViewsAreReadOnly : Prop :=
  (AccessDoes (.rd32 0x00C#12) fun s => { s with reads := s.reads ++ [.word (0#16 ++ s.acc16)] }) ∧
  (AccessDoes (.rd32 0x010#12) fun s => { s with reads := s.reads ++ [.word (0#24 ++ s.acc7)] }) ∧
  (AccessDoes (.rd32 0x018#12) fun s => { s with reads := s.reads ++ [.word 0x00891021#32] }) ∧
  WriteIsBusError 0x00C#12 ∧ WriteIsBusError 0x010#12 ∧ WriteIsBusError 0x018#12

/-- 10_state.md R33, 41_reference_codec.md R134: DIG7 reads `((ACC7 << 1) | 1)[7:0]`, here as a number, and ACC7 keeps its
value. -/
def Obligations.DigestViewFinalizesAcc7 : Prop :=
  (AccessDoes (.rd32 0x014#12) fun s =>
    { s with reads := s.reads ++ [.word (BitVec.ofNat 32 ((2 * s.acc7.toNat + 1) % 256))] }) ∧
  WriteIsBusError 0x014#12

/-- 10_state.md R30, 43_emission.md R184: a CTRL write takes bit 0 as ORDER and changes nothing else; a CTRL read returns
ORDER with zeros above it; a 1-byte access is a bus error. -/
def Obligations.ControlRegisterHoldsOrder : Prop :=
  (∀ v : Word, AccessDoes (.wr32 0x008#12 v) fun s => { s with order := if v.getLsbD 0 then .little else .big }) ∧
  (AccessDoes (.rd32 0x008#12) fun s =>
    { s with reads := s.reads ++ [.word (match s.order with | .big => 0#32 | .little => 1#32)] }) ∧
  (∀ v : Byte, AccessDoes (.wr8 0x008#12 v) fun s => { s with status := { s.status with berr := true } }) ∧
  (AccessDoes (.rd8 0x008#12) fun s =>
    { s with reads := s.reads ++ [.byte 0#8], status := { s.status with berr := true } })

/-- 20_memory.md R59: performing any read a second time returns the same value again and leaves the state the first one
left. -/
def Obligations.ReadsAreIdempotent : Prop :=
  ∀ (s : State) (a : Access), isRead a = true → ∃ (v : ReadValue) (t : State), t.reads = s.reads ++ [v] ∧
    (∀ rest, step { s with pending := .host a :: rest } = .next { t with pending := rest }) ∧
    (∀ rest, step { t with pending := .host a :: rest } = .next { t with pending := rest, reads := t.reads ++ [v] })

/-! ## Emission (43_emission.md) -/

/-- R180, R181: byte `k` of WIN16 is half `k[0]` of entry `k >> 1` in the target order; a closed gate gives 0x00 and GATE;
any other access to the window is a bus error. -/
def Obligations.Win16ReadDeliversTargetOrder : Prop :=
  (∀ (s : State) (k : BitVec 9) (rest : List Input),
    (s.status.v16 = true →
      step { s with pending := .host (.rd8 (0x400#12 + k.setWidth 12)) :: rest } =
        .next { s with
          pending := rest
          reads := s.reads ++
            [.byte (
              let v := Table16.read s.tbl16 (BitVec.ofNat 8 (k.toNat / 2))
              match s.order with
              | .big => if k.toNat % 2 = 0 then v.extractLsb' 8 8 else v.extractLsb' 0 8
              | .little => if k.toNat % 2 = 0 then v.extractLsb' 0 8 else v.extractLsb' 8 8)] }) ∧
    (s.status.v16 = false →
      step { s with pending := .host (.rd8 (0x400#12 + k.setWidth 12)) :: rest } =
        .next { s with
          pending := rest, reads := s.reads ++ [.byte 0x00#8], status := { s.status with gate := true } })) ∧
  ∀ k : BitVec 9, WriteIsBusError (0x400#12 + k.setWidth 12) ∧
    AccessDoes (.rd32 (0x400#12 + k.setWidth 12)) fun s =>
      { s with reads := s.reads ++ [.word 0#32], status := { s.status with berr := true } }

/-- R182: byte `k` of WIN7 is TBL7[k]; a closed gate gives 0x00 and GATE; any other access to the window is a bus error. -/
def Obligations.Win7ReadDeliversTheEntry : Prop :=
  (∀ (s : State) (k : Byte) (rest : List Input),
    (s.status.v7 = true →
      step { s with pending := .host (.rd8 (0x600#12 + k.setWidth 12)) :: rest } =
        .next { s with pending := rest, reads := s.reads ++ [.byte (Table7.read s.tbl7 k)] }) ∧
    (s.status.v7 = false →
      step { s with pending := .host (.rd8 (0x600#12 + k.setWidth 12)) :: rest } =
        .next { s with
          pending := rest, reads := s.reads ++ [.byte 0x00#8], status := { s.status with gate := true } })) ∧
  ∀ k : Byte, WriteIsBusError (0x600#12 + k.setWidth 12) ∧
    AccessDoes (.rd32 (0x600#12 + k.setWidth 12)) fun s =>
      { s with reads := s.reads ++ [.word 0#32], status := { s.status with berr := true } }

/-- R183: "The block never returns table data through a closed window." With both gates closed, no host access but a
command tells two tables apart. -/
def Obligations.ClosedWindowsRevealNoTableData : Prop :=
  ∀ (s : State) (a : Access) (t16 : Table16) (t7 : Table7), s.status.v16 = false → s.status.v7 = false →
    (∀ w, a ≠ .wr32 0x000#12 w) →
    ∃ t : State, ∀ rest : List Input,
      step { s with pending := .host a :: rest } = .next { t with pending := rest } ∧
      step { s with tbl16 := t16, tbl7 := t7, pending := .host a :: rest } =
        .next { t with tbl16 := t16, tbl7 := t7, pending := rest }

/-- R185: (a) the byte at `k` in little-endian order is the byte at `k ^ 1` in big-endian order; (b) the same the other way
round, so that swapping the bytes of every pair of the artifact gives the other order's artifact, and swapping them again gives
back the first; (c) the two bytes of an entry, assembled in the target order, are the entry (20_memory.md R55). `win16Byte` is
what an open WIN16 returns (Win16ReadDeliversTargetOrder), `artifact16` what 512 reads return (WindowsReadOutTheArtifacts). -/
def Obligations.ByteOrderSwapsPairs : Prop :=
  ∀ t : Table16,
    (∀ k : BitVec 9, win16Byte t .little k = win16Byte t .big (k ^^^ 1#9)) ∧
    (∀ k : BitVec 9, win16Byte t .big k = win16Byte t .little (k ^^^ 1#9)) ∧
    artifact16 t .little = swapPairs (artifact16 t .big) ∧ swapPairs (artifact16 t .little) = artifact16 t .big ∧
    (∀ e : Byte, win16Byte t .big (e ++ 0#1) ++ win16Byte t .big (e ++ 1#1) = Table16.read t e) ∧
    (∀ e : Byte, win16Byte t .little (e ++ 1#1) ++ win16Byte t .little (e ++ 0#1) = Table16.read t e)

/-- R186: with V16 = 1 the 512 bytes read from WIN16 in order are the binary artifact, and with V7 = 1 the 256 bytes of WIN7
are TBL7 in index order; the read-out changes nothing else. -/
def Obligations.WindowsReadOutTheArtifacts : Prop :=
  ∀ (s : State) (rest : List Input),
    (s.status.v16 = true →
      run 512 { s with pending := windowReads 0x400 512 ++ rest } =
        .next { s with pending := rest, reads := s.reads ++ (artifact16 s.tbl16 s.order).map .byte }) ∧
    (s.status.v7 = true →
      run 256 { s with pending := windowReads 0x600 256 ++ rest } =
        .next { s with pending := rest, reads := s.reads ++ s.tbl7.toList.map .byte })

/-! ## Table builder (40_table_builder.md) -/

/-- R100: BUILD16 writes all 256 entries, each 8 rounds of polynomial division from `i << 8`, clears V16, and does nothing
else. -/
def Obligations.Build16WritesTheDivisionTable : Prop :=
  ∃ T : Table16,
    (∀ i : Byte, Table16.read T i =
      Nat.iterate (fun r : Half => if r.getLsbD 15 then (r <<< 1) ^^^ 0x1021#16 else r <<< 1) 8 (i ++ 0x00#8)) ∧
    (∀ s : State, exec .build16 s = .next { s with tbl16 := T, status := { s.status with v16 := false } }) ∧
    CommandDoes 0x10000000#32 fun s => { s with tbl16 := T, status := { s.status with v16 := false } }

/-- R102: BUILD7 writes all 256 entries, each the reduced seed and 7 rounds of shift, test and XOR, clears V7, and does
nothing else. -/
def Obligations.Build7WritesTheDivisionTable : Prop :=
  ∃ T : Table7,
    (∀ i : Byte, Table7.read T i =
      Nat.iterate (fun r : Byte => if (r <<< 1).getLsbD 7 then (r <<< 1) ^^^ 0x89#8 else r <<< 1) 7
        (if i.getLsbD 7 then i ^^^ 0x89#8 else i)) ∧
    (∀ s : State, exec .build7 s = .next { s with tbl7 := T, status := { s.status with v7 := false } }) ∧
    CommandDoes 0x20000000#32 fun s => { s with tbl7 := T, status := { s.status with v7 := false } }

/-- R101 (a) and (c): 16 rounds from the seed `i` give the same table, and the table is linear. -/
def Obligations.Built16TableIsLinear : Prop :=
  ∀ s : State, ∃ t : State, exec .build16 s = .next t ∧
    (∀ i : Byte, Table16.read t.tbl16 i =
      Nat.iterate (fun r : Half => if r.getLsbD 15 then (r <<< 1) ^^^ 0x1021#16 else r <<< 1) 16 (i.setWidth 16)) ∧
    (∀ a b : Byte, Table16.read t.tbl16 (a ^^^ b) = Table16.read t.tbl16 a ^^^ Table16.read t.tbl16 b)

/-- R103 (a) and (c): every value BUILD7 writes is below 0x80, and the table is linear. -/
def Obligations.Built7TableIsLinearAndSevenBit : Prop :=
  ∀ s : State, ∃ t : State, exec .build7 s = .next t ∧
    (∀ i : Byte, (Table7.read t.tbl7 i).toNat < 0x80) ∧
    (∀ a b : Byte, Table7.read t.tbl7 (a ^^^ b) = Table7.read t.tbl7 a ^^^ Table7.read t.tbl7 b)

open Polynomial in
/-- R101 (b): TBL16[i] is the remainder of `i(x)·x^16` divided by `x^16 + x^12 + x^5 + 1` over GF(2). Reading 0x1021 as that
polynomial is the spec's general knowledge (GK1). -/
def Obligations.Built16EntryIsThePolynomialRemainder : Prop :=
  ∀ (s : State) (i : Byte), ∃ t : State, exec .build16 s = .next t ∧
    (∑ j ∈ Finset.range 16, if (Table16.read t.tbl16 i).getLsbD j then (X ^ j : (ZMod 2)[X]) else 0) =
      (∑ j ∈ Finset.range 8, if i.getLsbD j then (X ^ j : (ZMod 2)[X]) else 0) * X ^ 16 %ₘ (X ^ 16 + X ^ 12 + X ^ 5 + 1)

open Polynomial in
/-- R103 (b): TBL7[i] is the remainder of `i(x)·x^7` divided by `x^7 + x^3 + 1` over GF(2). Reading 0x89 as that polynomial is
the spec's general knowledge (GK2). -/
def Obligations.Built7EntryIsThePolynomialRemainder : Prop :=
  ∀ (s : State) (i : Byte), ∃ t : State, exec .build7 s = .next t ∧
    (∑ j ∈ Finset.range 8, if (Table7.read t.tbl7 i).getLsbD j then (X ^ j : (ZMod 2)[X]) else 0) =
      (∑ j ∈ Finset.range 8, if i.getLsbD j then (X ^ j : (ZMod 2)[X]) else 0) * X ^ 7 %ₘ (X ^ 7 + X ^ 3 + 1)

/-- R105: WR16 writes one entry, every other entry stays, V16 is cleared "even when imm16 equals the old entry", and nothing
else changes; every idx and imm16 is legal. -/
def Obligations.Wr16WritesOneEntry : Prop :=
  (∀ (s : State) (idx : Byte) (v : Half), ∃ T : Table16,
    exec (.wr16 idx v) s = .next { s with tbl16 := T, status := { s.status with v16 := false } } ∧
    Table16.read T idx = v ∧ ∀ j, j ≠ idx → Table16.read T j = Table16.read s.tbl16 j) ∧
  (∀ w : Word, w &&& 0xFF000000#32 = 0x80000000#32 →
    CommandDoes w fun s =>
      { s with
        tbl16 := Table16.write s.tbl16 (w.extractLsb' 16 8) (w.extractLsb' 0 16)
        status := { s.status with v16 := false } })

/-- R106: WR7 writes one entry with any 8-bit value, every other entry stays, V7 is cleared, and nothing else changes;
"ILL if `w[15:8] != 0` (then nothing is written)". -/
def Obligations.Wr7WritesOneEntry : Prop :=
  (∀ (s : State) (idx v : Byte), ∃ T : Table7,
    exec (.wr7 idx v) s = .next { s with tbl7 := T, status := { s.status with v7 := false } } ∧
    Table7.read T idx = v ∧ ∀ j, j ≠ idx → Table7.read T j = Table7.read s.tbl7 j) ∧
  (∀ w : Word, w &&& 0xFF00FF00#32 = 0x90000000#32 →
    CommandDoes w fun s =>
      { s with
        tbl7 := Table7.write s.tbl7 (w.extractLsb' 16 8) (w.extractLsb' 0 8)
        status := { s.status with v7 := false } }) ∧
  (∀ w : Word, w &&& 0xF0000000#32 = 0x90000000#32 → w.extractLsb' 8 8 ≠ 0#8 → RefusedAsIllegal w)

/-! ## Reference codec (41_reference_codec.md) -/

/-- R130: `ACC16 <- imm16`, no flag, nothing else; "ILL if `w[23:16] != 0` or `w[27:24] != 0`". -/
def Obligations.Set16LoadsAcc16 : Prop :=
  (∀ (s : State) (v : Half), exec (.set16 v) s = .next { s with acc16 := v }) ∧
  (∀ w : Word, w &&& 0xFFFF0000#32 = 0x30000000#32 → CommandDoes w fun s => { s with acc16 := w.extractLsb' 0 16 }) ∧
  (∀ w : Word, w &&& 0xF0000000#32 = 0x30000000#32 → (w.extractLsb' 16 8 ≠ 0#8 ∨ w.extractLsb' 24 4 ≠ 0#4) →
    RefusedAsIllegal w)

/-- R131: `ACC7 <- imm8`, all 8 bits, no flag, nothing else; "ILL if `w[27:8] != 0`". -/
def Obligations.Set7LoadsAcc7 : Prop :=
  (∀ (s : State) (v : Byte), exec (.set7 v) s = .next { s with acc7 := v }) ∧
  (∀ w : Word, w &&& 0xFFFFFF00#32 = 0x40000000#32 → CommandDoes w fun s => { s with acc7 := w.extractLsb' 0 8 }) ∧
  (∀ w : Word, w &&& 0xF0000000#32 = 0x40000000#32 → w.extractLsb' 8 20 ≠ 0#20 → RefusedAsIllegal w)

/-- R132: `ACC16 <- TBL16[((ACC16 >> 8) ^ b) & 0xFF] ^ (ACC16 << 8)[15:0]`, whatever V16 is, no flag, nothing else; "ILL if
`w[27:8] != 0`". The old high byte selects the entry, the old low byte moves up. -/
def Obligations.Upd16FoldsOneByte : Prop :=
  (∀ (s : State) (b : Byte), exec (.upd16 b) s =
    .next { s with
      acc16 := Table16.read s.tbl16 (s.acc16.extractLsb' 8 8 ^^^ b) ^^^ (s.acc16.extractLsb' 0 8 ++ 0x00#8) }) ∧
  (∀ w : Word, w &&& 0xFFFFFF00#32 = 0x50000000#32 → CommandDoes w fun s =>
    { s with
      acc16 := Table16.read s.tbl16 (s.acc16.extractLsb' 8 8 ^^^ w.extractLsb' 0 8) ^^^
        (s.acc16.extractLsb' 0 8 ++ 0x00#8) }) ∧
  (∀ w : Word, w &&& 0xF0000000#32 = 0x50000000#32 → w.extractLsb' 8 20 ≠ 0#20 → RefusedAsIllegal w)

/-- R133: `ACC7 <- TBL7[((ACC7 << 1) ^ b) & 0xFF]`, the shift taken one bit wider and then truncated to 8 bits, whatever V7
is, no flag, nothing else; "ILL if `w[27:8] != 0`". -/
def Obligations.Upd7FoldsOneByte : Prop :=
  (∀ (s : State) (b : Byte), exec (.upd7 b) s =
    .next { s with acc7 := Table7.read s.tbl7 (((s.acc7.setWidth 9 <<< 1) ^^^ b.setWidth 9).setWidth 8) }) ∧
  (∀ w : Word, w &&& 0xFFFFFF00#32 = 0x60000000#32 → CommandDoes w fun s =>
    { s with acc7 := Table7.read s.tbl7 (((s.acc7.setWidth 9 <<< 1) ^^^ (w.extractLsb' 0 8).setWidth 9).setWidth 8) }) ∧
  (∀ w : Word, w &&& 0xF0000000#32 = 0x60000000#32 → w.extractLsb' 8 20 ≠ 0#20 → RefusedAsIllegal w)

/-- R135, with the pseudo-commands DIGEST16 and DIGEST7 of 30_encoding.md R89: the digest of any message, of any length, on the
block. SET16 0, one UPD16 per byte, `rd ACC16` returns digest16; SET7 0, one UPD7 per byte, `rd DIG7` returns digest7; each
command and the read are one step, and only the accumulator changes. The operations are those the script's lines stand for;
that a script is data is the model's choice (log entry 14). -/
def Obligations.DigestIsTheFoldOfUpdates : Prop :=
  ∀ (s : State) (m : List Byte) (rest : List Input),
    (∃ ops, assembleScript (Pseudo.digest16 (m.map BitVec.toNat)).lines = some ops ∧
      run (m.length + 2) { s with pending := ops ++ rest } =
        .next { s with
          pending := rest
          acc16 := m.foldl (upd16 s.tbl16) 0x0000#16
          reads := s.reads ++ [.word ((m.foldl (upd16 s.tbl16) 0x0000#16).setWidth 32)] }) ∧
    (∃ ops, assembleScript (Pseudo.digest7 (m.map BitVec.toNat)).lines = some ops ∧
      run (m.length + 2) { s with pending := ops ++ rest } =
        .next { s with
          pending := rest
          acc7 := m.foldl (upd7 s.tbl7) 0x00#8
          reads := s.reads ++ [.word ((fin7 (m.foldl (upd7 s.tbl7) 0x00#8)).setWidth 32)] })

/-- 30_encoding.md R89: "PEEK16 is exact" and PEEK7 too: the entry is read without the gate, whatever the table holds; only
the accumulator is overwritten. That a script is data is the model's choice (log entry 14). -/
def Obligations.PeekReadsAnyEntryWithoutTheGate : Prop :=
  ∀ (s : State) (i : Byte) (rest : List Input),
    (∃ ops, assembleScript (Pseudo.peek16 i.toNat).lines = some ops ∧
      run 3 { s with pending := ops ++ rest } =
        .next { s with
          pending := rest
          acc16 := Table16.read s.tbl16 i
          reads := s.reads ++ [.word ((Table16.read s.tbl16 i).setWidth 32)] }) ∧
    (∃ ops, assembleScript (Pseudo.peek7 i.toNat).lines = some ops ∧
      run 3 { s with pending := ops ++ rest } =
        .next { s with
          pending := rest
          acc7 := Table7.read s.tbl7 i
          reads := s.reads ++ [.word ((Table7.read s.tbl7 i).setWidth 32)] })

/-- 40_table_builder.md R103 (d): while the CRC7 side holds 7-bit values, the truncation of R133 removes no bit. -/
def Obligations.SevenBitIndexIsNeverTruncated : Prop :=
  ∀ (s : State) (b : Byte), SevenBit s →
    (s.acc7.toNat <<< 1) ^^^ b.toNat ≤ 0xFF ∧
    exec (.upd7 b) s =
      .next { s with acc7 := Table7.read s.tbl7 (BitVec.ofNat 8 ((s.acc7.toNat <<< 1) ^^^ b.toNat)) }

/-- 10_state.md R22, R36 and R103: the CRC7 side stays 7-bit across every step but a SET7 or a WR7 that brings bit 7 in. -/
def Obligations.StepKeepsSevenBit : Prop :=
  ∀ s t : State, SevenBit s → step s = .next t →
    (∀ v : Byte, 0x80 ≤ v.toNat → ¬ NextCommand s (.set7 v)) →
    (∀ idx v : Byte, 0x80 ≤ v.toNat → ¬ NextCommand s (.wr7 idx v)) → SevenBit t

/-! ## Verifier (42_verifier.md) -/

/-- R161, R162, R165: VERIFY runs its set's vectors in index order against the current tables. If all pass, the V bits of the
set go to 1 and (VFAIL, VIDX) to (0, 0); at the first mismatch, vector k, the V bits of the set go to 0 and (VFAIL, VIDX) to
(1, k). Only those fields change. Set 3 or a bit of 27:2 is illegal and sets ILL alone. -/
def Obligations.VerifyRunsTheVectorsAndFailsFast : Prop :=
  (∀ (s : State) (set : BitVec 2), set ≠ 3#2 → (∀ k, Runs set k → VectorPasses s.tbl16 s.tbl7 k) →
    exec (.verify set) s = .next { s with status := { s.status with
      v16 := if set = 0#2 ∨ set = 1#2 then true else s.status.v16
      v7 := if set = 0#2 ∨ set = 2#2 then true else s.status.v7
      vfail := false, vidx := 0#3 } }) ∧
  (∀ (s : State) (set : BitVec 2) (k : Fin 6), set ≠ 3#2 → Runs set k → ¬ VectorPasses s.tbl16 s.tbl7 k →
    (∀ j, j < k → Runs set j → VectorPasses s.tbl16 s.tbl7 j) →
    exec (.verify set) s = .next { s with status := { s.status with
      v16 := if set = 0#2 ∨ set = 1#2 then false else s.status.v16
      v7 := if set = 0#2 ∨ set = 2#2 then false else s.status.v7
      vfail := true, vidx := BitVec.ofNat 3 k.val } }) ∧
  (∀ s : State, exec (.verify 3#2) s = .next { s with status := { s.status with ill := true } }) ∧
  (∀ (s : State) (rest : List Input) (w : Word), w &&& 0xFFFFFFFC#32 = 0x70000000#32 → w.extractLsb' 0 2 ≠ 3#2 →
    step { s with pending := .host (.wr32 0x000#12 w) :: rest } =
      exec (.verify (w.extractLsb' 0 2)) { s with pending := rest }) ∧
  (∀ w : Word, w &&& 0xF0000000#32 = 0x70000000#32 → (w.extractLsb' 0 2 = 3#2 ∨ w.extractLsb' 2 26 ≠ 0#26) →
    RefusedAsIllegal w)

/-- R161: VERIFY with every legal set completes from every state, and changes V16, V7, VFAIL and VIDX only. -/
def Obligations.VerifyAlwaysCompletes : Prop :=
  ∀ (s : State) (set : BitVec 2), set ≠ 3#2 → ∃ f : Status,
    exec (.verify set) s = .next { s with status := f } ∧
    f.ill = s.status.ill ∧ f.gate = s.status.gate ∧ f.berr = s.status.berr ∧
    (¬ Covers16 set → f.v16 = s.status.v16) ∧ (¬ Covers7 set → f.v7 = s.status.v7)

/-- R166 (a): "From any state, `BUILD16 ; BUILD7 ; VERIFY ALL` ends with V16 = V7 = 1 and VFAIL = 0", with 40_table_builder.md
R104: the tables are the same from every state, those of R100 and R102. -/
def Obligations.BuildThenVerifyOpensBothGates : Prop :=
  ∃ (T16 : Table16) (T7 : Table7),
    (∀ i : Byte, Table16.read T16 i =
      Nat.iterate (fun r : Half => if r.getLsbD 15 then (r <<< 1) ^^^ 0x1021#16 else r <<< 1) 8 (i ++ 0x00#8)) ∧
    (∀ i : Byte, Table7.read T7 i =
      Nat.iterate (fun r : Byte => if (r <<< 1).getLsbD 7 then (r <<< 1) ^^^ 0x89#8 else r <<< 1) 7
        (if i.getLsbD 7 then i ^^^ 0x89#8 else i)) ∧
    ∀ (s : State) (rest : List Input),
      run 3
        { s with pending :=
            [.host (.wr32 0x000#12 0x10000000#32), .host (.wr32 0x000#12 0x20000000#32),
              .host (.wr32 0x000#12 0x70000000#32)] ++ rest } =
        .next { s with
          pending := rest, tbl16 := T16, tbl7 := T7
          status := { s.status with v16 := true, v7 := true, vfail := false, vidx := 0#3 } }

/-- R166 (c): a changed entry that no vector message reaches is not caught, whatever it is changed to. For TBL16, every entry
that vector 0 does not look up in the built table, the ten that 95_test_vectors.md section 3.3 names among them; for TBL7,
every entry outside the 25 that section 3.3 lists. -/
def Obligations.UnreachedEntryIsNotCaught : Prop :=
  (∀ (s : State) (e : Byte) (v : Half), ∃ t1 t2 t3 : State,
    exec .build16 s = .next t1 ∧ exec (.wr16 e v) t1 = .next t2 ∧ exec (.verify 1#2) t2 = .next t3 ∧
    Table16.read t3.tbl16 e = v ∧
    (e ∈ namedUnreached16 → ¬ LooksUp16 t1.tbl16 (List.replicate 512 0xFF#8) e) ∧
    (¬ LooksUp16 t1.tbl16 (List.replicate 512 0xFF#8) e →
      t3.status.v16 = true ∧ t3.status.vfail = false ∧ t3.status.vidx = 0#3)) ∧
  (∀ (s : State) (e v : Byte), ∃ t1 t2 t3 : State,
    exec .build7 s = .next t1 ∧ exec (.wr7 e v) t1 = .next t2 ∧ exec (.verify 2#2) t2 = .next t3 ∧
    Table7.read t3.tbl7 e = v ∧
    (e ∉ reached7 → t3.status.v7 = true ∧ t3.status.vfail = false ∧ t3.status.vidx = 0#3))

/-- R166 (b): a corrupted entry that a digest depends on is caught. TBL7[0x92] is the last entry vector 1 reaches
(95_test_vectors.md section 1): after BUILD7 and WR7 0x92, v, VERIFY 7 passes exactly when the low 7 bits of v are the built
entry's, 0x4A, and else fails at vector 1. -/
def Obligations.CorruptedEntryIsCaught : Prop :=
  ∀ (s : State) (v : Byte), ∃ t1 t2 t3 : State,
    exec .build7 s = .next t1 ∧ exec (.wr7 0x92#8 v) t1 = .next t2 ∧ exec (.verify 2#2) t2 = .next t3 ∧
    (v.toNat % 128 = 0x4A → t3.status.v7 = true ∧ t3.status.vfail = false ∧ t3.status.vidx = 0#3) ∧
    (v.toNat % 128 ≠ 0x4A → t3.status.v7 = false ∧ t3.status.vfail = true ∧ t3.status.vidx = 1#3)

/-- R163 and R29: an open window shows only verified contents; every step keeps it. -/
def Obligations.StepKeepsGatesSound : Prop :=
  ∀ s t : State, GatesSound s → step s = .next t → GatesSound t

/-- R163: while V16 = 1, TBL16 is unchanged since the VERIFY that set it (a step after which V16 is 1 left TBL16 alone), and
the same for V7 and TBL7. -/
def Obligations.OpenTableIsUnchanged : Prop :=
  ∀ s t : State, step s = .next t →
    (t.status.v16 = true → t.tbl16 = s.tbl16) ∧ (t.status.v7 = true → t.tbl7 = s.tbl7)

/-- R163: what moves V16 and V7. BUILD, WR and reset clear the bit, a VERIFY whose set covers the variant sets it exactly when
every vector it runs passes, and every other step leaves it. -/
def Obligations.GateBitsFollowTheLastVerify : Prop :=
  ∀ s t : State, step s = .next t →
    ((NextReset s ∨ NextCommand s .build16 ∨ ∃ idx v, NextCommand s (.wr16 idx v)) → t.status.v16 = false) ∧
    ((NextReset s ∨ NextCommand s .build7 ∨ ∃ idx v, NextCommand s (.wr7 idx v)) → t.status.v7 = false) ∧
    (∀ set, NextCommand s (.verify set) → Covers16 set →
      (t.status.v16 = true ↔ ∀ k, Runs set k → VectorPasses s.tbl16 s.tbl7 k)) ∧
    (∀ set, NextCommand s (.verify set) → Covers7 set →
      (t.status.v7 = true ↔ ∀ k, Runs set k → VectorPasses s.tbl16 s.tbl7 k)) ∧
    (¬ NextReset s → ¬ NextCommand s .build16 → (∀ idx v, ¬ NextCommand s (.wr16 idx v)) →
      (∀ set, Covers16 set → ¬ NextCommand s (.verify set)) → t.status.v16 = s.status.v16) ∧
    (¬ NextReset s → ¬ NextCommand s .build7 → (∀ idx v, ¬ NextCommand s (.wr7 idx v)) →
      (∀ set, Covers7 set → ¬ NextCommand s (.verify set)) → t.status.v7 = s.status.v7)

/-- 10_state.md R29: VIDX is 0 when VFAIL = 0 and never 6 or 7; every step keeps it. -/
def Obligations.StepKeepsResultLegal : Prop :=
  ∀ s t : State, ResultLegal s → step s = .next t → ResultLegal t

/-- The three invariants above hold after reset (10_state.md R42). -/
def Obligations.InvariantsHoldAtReset : Prop :=
  GatesSound State.reset ∧ ResultLegal State.reset ∧ SevenBit State.reset

/-- 20_memory.md R67: "VERIFY folds at most 512 + 5 x 5 = 537 bytes". The bytes folded are the messages of the vectors that
the set runs, up to and including the one the loop answers (all of them when it answers none), which is the one that VERIFY
leaves in VFAIL and VIDX; so they are at most 537. -/
def Obligations.VerifyFoldsAtMost537Bytes : Prop :=
  (∀ (set : BitVec 2) (t16 : Table16) (t7 : Table7),
    foldedBytes set t16 t7 vrom =
      ∑ k : Fin 6,
        if Runs set k ∧ (firstMismatch set t16 t7 vrom).all (k.val ≤ ·.toNat) = true then messageLength k else 0) ∧
  ∀ (s : State) (set : BitVec 2), set ≠ 3#2 → ∃ t : State, exec (.verify set) s = .next t ∧
    foldedBytes set s.tbl16 s.tbl7 vrom =
      (∑ k : Fin 6,
        if Runs set k ∧ (t.status.vfail = true → k.val ≤ t.status.vidx.toNat) then messageLength k else 0) ∧
    foldedBytes set s.tbl16 s.tbl7 vrom ≤ 537

/-! ## System and errors (44_system.md, 60_exceptions.md) -/

/-- 44_system.md R200: NOP "leaves the whole state unchanged"; "A word with OP = 0x0 and any other bit set is illegal". -/
def Obligations.NopChangesNothing : Prop :=
  (∀ s : State, exec .nop s = .next s) ∧ CommandDoes 0x00000000#32 (fun s => s) ∧
  (∀ w : Word, w &&& 0xF0000000#32 = 0x00000000#32 → w ≠ 0x00000000#32 → RefusedAsIllegal w)

/-- 44_system.md R201: CLRERR clears ILL, GATE and BERR and changes nothing else; "A word with OP = 0xA and any other bit set
is illegal and sets ILL; it does not clear anything". -/
def Obligations.ClrerrClearsTheStickyBits : Prop :=
  (∀ s : State, exec .clrerr s =
    .next { s with status := { s.status with ill := false, gate := false, berr := false } }) ∧
  (CommandDoes 0xA0000000#32 fun s =>
    { s with status := { s.status with ill := false, gate := false, berr := false } }) ∧
  (∀ w : Word, w &&& 0xF0000000#32 = 0xA0000000#32 → w ≠ 0xA0000000#32 → RefusedAsIllegal w)

/-- 60_exceptions.md R220: ILL, GATE and BERR stay 1 until CLRERR or reset; VFAIL and VIDX stay until the next legal VERIFY or
reset. -/
def Obligations.ErrorsStayUntilCleared : Prop :=
  ∀ s t : State, step s = .next t → ¬ NextReset s →
    (¬ NextCommand s .clrerr →
      (s.status.ill = true → t.status.ill = true) ∧ (s.status.gate = true → t.status.gate = true) ∧
      (s.status.berr = true → t.status.berr = true)) ∧
    ((∀ set, ¬ NextCommand s (.verify set)) → t.status.vfail = s.status.vfail ∧ t.status.vidx = s.status.vidx)

/-- 60_exceptions.md R211, R217: each error bit that a host operation sets has the cause R211 names, and no operation sets two
(VFAIL among them). VFAIL's is that a vector's digest differs from its expected value, and VIDX is the first such vector. -/
def Obligations.EachErrorHasItsOneCause : Prop :=
  ∀ (s t : State) (a : Access) (rest : List Input), step { s with pending := .host a :: rest } = .next t →
    (s.status.ill = false → t.status.ill = true →
      (∃ w, a = .wr32 0x000#12 w ∧ IllegalWord w) ∧ t.status.gate = s.status.gate ∧ t.status.berr = s.status.berr ∧
      t.status.vfail = s.status.vfail) ∧
    (s.status.gate = false → t.status.gate = true →
      ((∃ k : BitVec 9, a = .rd8 (0x400#12 + k.setWidth 12) ∧ s.status.v16 = false) ∨
        (∃ k : Byte, a = .rd8 (0x600#12 + k.setWidth 12) ∧ s.status.v7 = false)) ∧
      t.status.ill = s.status.ill ∧ t.status.berr = s.status.berr ∧ t.status.vfail = s.status.vfail) ∧
    (s.status.berr = false → t.status.berr = true →
      ¬ ListedAccess a ∧ t.status.ill = s.status.ill ∧ t.status.gate = s.status.gate ∧
      t.status.vfail = s.status.vfail) ∧
    (s.status.vfail = false → t.status.vfail = true →
      (∃ (w : Word) (set : BitVec 2) (k : Fin 6), a = .wr32 0x000#12 w ∧ decode w = .ok (.verify set) ∧
        Runs set k ∧ ¬ VectorPasses s.tbl16 s.tbl7 k ∧ (∀ j, j < k → Runs set j → VectorPasses s.tbl16 s.tbl7 j) ∧
        t.status.vidx = BitVec.ofNat 3 k.val) ∧
      t.status.ill = s.status.ill ∧ t.status.gate = s.status.gate ∧ t.status.berr = s.status.berr)

/-! ## Who may change what -/

/-- 10_state.md R21, R22: only SET16 and UPD16 write ACC16, only SET7 and UPD7 write ACC7, and reset clears both. -/
def Obligations.OnlySetUpdAndResetWriteAccumulators : Prop :=
  ∀ s t : State, step s = .next t →
    (t.acc16 ≠ s.acc16 → NextReset s ∨ (∃ v, NextCommand s (.set16 v)) ∨ ∃ b, NextCommand s (.upd16 b)) ∧
    (t.acc7 ≠ s.acc7 → NextReset s ∨ (∃ v, NextCommand s (.set7 v)) ∨ ∃ b, NextCommand s (.upd7 b))

/-- 10_state.md R35, R36, R30: only BUILD16 and WR16 write TBL16, only BUILD7 and WR7 write TBL7, only a CTRL write changes
ORDER, and reset sets all three. -/
def Obligations.OnlyBuildWrAndResetWriteTables : Prop :=
  ∀ s t : State, step s = .next t →
    (t.tbl16 ≠ s.tbl16 → NextReset s ∨ NextCommand s .build16 ∨ ∃ idx v, NextCommand s (.wr16 idx v)) ∧
    (t.tbl7 ≠ s.tbl7 → NextReset s ∨ NextCommand s .build7 ∨ ∃ idx v, NextCommand s (.wr7 idx v)) ∧
    (t.order ≠ s.order → NextReset s ∨ ∃ v rest, s.pending = .host (.wr32 0x008#12 v) :: rest)

/-- 40_table_builder.md R104, 42_verifier.md R165, 70_reset_and_hazards.md R246: no command reads or writes CTRL.ORDER. -/
def Obligations.CommandsIgnoreTargetOrder : Prop :=
  ∀ (i : Instr) (s : State), ∃ t : State, t.order = s.order ∧
    ∀ o : ByteOrder, exec i { s with order := o } = .next { t with order := o }

/-- 20_memory.md R50: offset `off` is at host address BLOCK_BASE + off, and no other address reaches the block. That the sum
does not wrap is the model's choice (log entry 13). -/
def Obligations.HostAddressesSelectOffsets : Prop :=
  (∀ off : Offset, offsetOf (hostAddress off) = some off) ∧
  ∀ (address : Nat) (off : Offset), offsetOf address = some off → address = Config.blockBase + off.toNat
end

