-- ==== Sys2Proof/Laws/State.lean ====
section
/-! SUPPORT. One lemma per field per state update, each true by rfl, so that no later proof unfolds a record update; and
the same for raising and clearing errors, reset and the STATUS updates. -/

namespace Sys2Proof.Machine

variable (s : State)

@[simp] theorem State.withAcc16_acc16 (v : Half) : (s.withAcc16 v).acc16 = v := rfl
@[simp] theorem State.withAcc16_acc7 (v : Half) : (s.withAcc16 v).acc7 = s.acc7 := rfl
@[simp] theorem State.withAcc16_tbl16 (v : Half) : (s.withAcc16 v).tbl16 = s.tbl16 := rfl
@[simp] theorem State.withAcc16_tbl7 (v : Half) : (s.withAcc16 v).tbl7 = s.tbl7 := rfl
@[simp] theorem State.withAcc16_status (v : Half) : (s.withAcc16 v).status = s.status := rfl
@[simp] theorem State.withAcc16_order (v : Half) : (s.withAcc16 v).order = s.order := rfl
@[simp] theorem State.withAcc16_pending (v : Half) : (s.withAcc16 v).pending = s.pending := rfl
@[simp] theorem State.withAcc16_reads (v : Half) : (s.withAcc16 v).reads = s.reads := rfl

@[simp] theorem State.withAcc7_acc16 (v : Byte) : (s.withAcc7 v).acc16 = s.acc16 := rfl
@[simp] theorem State.withAcc7_acc7 (v : Byte) : (s.withAcc7 v).acc7 = v := rfl
@[simp] theorem State.withAcc7_tbl16 (v : Byte) : (s.withAcc7 v).tbl16 = s.tbl16 := rfl
@[simp] theorem State.withAcc7_tbl7 (v : Byte) : (s.withAcc7 v).tbl7 = s.tbl7 := rfl
@[simp] theorem State.withAcc7_status (v : Byte) : (s.withAcc7 v).status = s.status := rfl
@[simp] theorem State.withAcc7_order (v : Byte) : (s.withAcc7 v).order = s.order := rfl
@[simp] theorem State.withAcc7_pending (v : Byte) : (s.withAcc7 v).pending = s.pending := rfl
@[simp] theorem State.withAcc7_reads (v : Byte) : (s.withAcc7 v).reads = s.reads := rfl

@[simp] theorem State.withTbl16_acc16 (v : Table16) : (s.withTbl16 v).acc16 = s.acc16 := rfl
@[simp] theorem State.withTbl16_acc7 (v : Table16) : (s.withTbl16 v).acc7 = s.acc7 := rfl
@[simp] theorem State.withTbl16_tbl16 (v : Table16) : (s.withTbl16 v).tbl16 = v := rfl
@[simp] theorem State.withTbl16_tbl7 (v : Table16) : (s.withTbl16 v).tbl7 = s.tbl7 := rfl
@[simp] theorem State.withTbl16_status (v : Table16) : (s.withTbl16 v).status = s.status := rfl
@[simp] theorem State.withTbl16_order (v : Table16) : (s.withTbl16 v).order = s.order := rfl
@[simp] theorem State.withTbl16_pending (v : Table16) : (s.withTbl16 v).pending = s.pending := rfl
@[simp] theorem State.withTbl16_reads (v : Table16) : (s.withTbl16 v).reads = s.reads := rfl

@[simp] theorem State.withTbl7_acc16 (v : Table7) : (s.withTbl7 v).acc16 = s.acc16 := rfl
@[simp] theorem State.withTbl7_acc7 (v : Table7) : (s.withTbl7 v).acc7 = s.acc7 := rfl
@[simp] theorem State.withTbl7_tbl16 (v : Table7) : (s.withTbl7 v).tbl16 = s.tbl16 := rfl
@[simp] theorem State.withTbl7_tbl7 (v : Table7) : (s.withTbl7 v).tbl7 = v := rfl
@[simp] theorem State.withTbl7_status (v : Table7) : (s.withTbl7 v).status = s.status := rfl
@[simp] theorem State.withTbl7_order (v : Table7) : (s.withTbl7 v).order = s.order := rfl
@[simp] theorem State.withTbl7_pending (v : Table7) : (s.withTbl7 v).pending = s.pending := rfl
@[simp] theorem State.withTbl7_reads (v : Table7) : (s.withTbl7 v).reads = s.reads := rfl

@[simp] theorem State.withStatus_acc16 (v : Status) : (s.withStatus v).acc16 = s.acc16 := rfl
@[simp] theorem State.withStatus_acc7 (v : Status) : (s.withStatus v).acc7 = s.acc7 := rfl
@[simp] theorem State.withStatus_tbl16 (v : Status) : (s.withStatus v).tbl16 = s.tbl16 := rfl
@[simp] theorem State.withStatus_tbl7 (v : Status) : (s.withStatus v).tbl7 = s.tbl7 := rfl
@[simp] theorem State.withStatus_status (v : Status) : (s.withStatus v).status = v := rfl
@[simp] theorem State.withStatus_order (v : Status) : (s.withStatus v).order = s.order := rfl
@[simp] theorem State.withStatus_pending (v : Status) : (s.withStatus v).pending = s.pending := rfl
@[simp] theorem State.withStatus_reads (v : Status) : (s.withStatus v).reads = s.reads := rfl

@[simp] theorem State.withOrder_acc16 (v : ByteOrder) : (s.withOrder v).acc16 = s.acc16 := rfl
@[simp] theorem State.withOrder_acc7 (v : ByteOrder) : (s.withOrder v).acc7 = s.acc7 := rfl
@[simp] theorem State.withOrder_tbl16 (v : ByteOrder) : (s.withOrder v).tbl16 = s.tbl16 := rfl
@[simp] theorem State.withOrder_tbl7 (v : ByteOrder) : (s.withOrder v).tbl7 = s.tbl7 := rfl
@[simp] theorem State.withOrder_status (v : ByteOrder) : (s.withOrder v).status = s.status := rfl
@[simp] theorem State.withOrder_order (v : ByteOrder) : (s.withOrder v).order = v := rfl
@[simp] theorem State.withOrder_pending (v : ByteOrder) : (s.withOrder v).pending = s.pending := rfl
@[simp] theorem State.withOrder_reads (v : ByteOrder) : (s.withOrder v).reads = s.reads := rfl

@[simp] theorem State.withPending_acc16 (v : List Input) : (s.withPending v).acc16 = s.acc16 := rfl
@[simp] theorem State.withPending_acc7 (v : List Input) : (s.withPending v).acc7 = s.acc7 := rfl
@[simp] theorem State.withPending_tbl16 (v : List Input) : (s.withPending v).tbl16 = s.tbl16 := rfl
@[simp] theorem State.withPending_tbl7 (v : List Input) : (s.withPending v).tbl7 = s.tbl7 := rfl
@[simp] theorem State.withPending_status (v : List Input) : (s.withPending v).status = s.status := rfl
@[simp] theorem State.withPending_order (v : List Input) : (s.withPending v).order = s.order := rfl
@[simp] theorem State.withPending_pending (v : List Input) : (s.withPending v).pending = v := rfl
@[simp] theorem State.withPending_reads (v : List Input) : (s.withPending v).reads = s.reads := rfl

@[simp] theorem State.reply_acc16 (v : ReadValue) : (s.reply v).acc16 = s.acc16 := rfl
@[simp] theorem State.reply_acc7 (v : ReadValue) : (s.reply v).acc7 = s.acc7 := rfl
@[simp] theorem State.reply_tbl16 (v : ReadValue) : (s.reply v).tbl16 = s.tbl16 := rfl
@[simp] theorem State.reply_tbl7 (v : ReadValue) : (s.reply v).tbl7 = s.tbl7 := rfl
@[simp] theorem State.reply_status (v : ReadValue) : (s.reply v).status = s.status := rfl
@[simp] theorem State.reply_order (v : ReadValue) : (s.reply v).order = s.order := rfl
@[simp] theorem State.reply_pending (v : ReadValue) : (s.reply v).pending = s.pending := rfl
@[simp] theorem State.reply_reads (v : ReadValue) : (s.reply v).reads = s.reads ++ [v] := rfl

@[simp] theorem raise_acc16 (e : Error) : (raise e s).acc16 = s.acc16 := rfl
@[simp] theorem raise_acc7 (e : Error) : (raise e s).acc7 = s.acc7 := rfl
@[simp] theorem raise_tbl16 (e : Error) : (raise e s).tbl16 = s.tbl16 := rfl
@[simp] theorem raise_tbl7 (e : Error) : (raise e s).tbl7 = s.tbl7 := rfl
@[simp] theorem raise_status (e : Error) : (raise e s).status = s.status.record e := rfl
@[simp] theorem raise_order (e : Error) : (raise e s).order = s.order := rfl
@[simp] theorem raise_pending (e : Error) : (raise e s).pending = s.pending := rfl
@[simp] theorem raise_reads (e : Error) : (raise e s).reads = s.reads := rfl

@[simp] theorem clearErrors_acc16 : (clearErrors s).acc16 = s.acc16 := rfl
@[simp] theorem clearErrors_acc7 : (clearErrors s).acc7 = s.acc7 := rfl
@[simp] theorem clearErrors_tbl16 : (clearErrors s).tbl16 = s.tbl16 := rfl
@[simp] theorem clearErrors_tbl7 : (clearErrors s).tbl7 = s.tbl7 := rfl
@[simp] theorem clearErrors_status : (clearErrors s).status = s.status.clearSticky := rfl
@[simp] theorem clearErrors_order : (clearErrors s).order = s.order := rfl
@[simp] theorem clearErrors_pending : (clearErrors s).pending = s.pending := rfl
@[simp] theorem clearErrors_reads : (clearErrors s).reads = s.reads := rfl

@[simp] theorem resetBlock_acc16 : (resetBlock s).acc16 = 0#16 := rfl
@[simp] theorem resetBlock_acc7 : (resetBlock s).acc7 = 0#8 := rfl
@[simp] theorem resetBlock_tbl16 : (resetBlock s).tbl16 = Vector.replicate 256 0#16 := rfl
@[simp] theorem resetBlock_tbl7 : (resetBlock s).tbl7 = Vector.replicate 256 0#8 := rfl
@[simp] theorem resetBlock_status : (resetBlock s).status = Status.reset := rfl
@[simp] theorem resetBlock_order : (resetBlock s).order = .big := rfl
@[simp] theorem resetBlock_pending : (resetBlock s).pending = s.pending := rfl
@[simp] theorem resetBlock_reads : (resetBlock s).reads = s.reads := rfl

variable (f : Status)

@[simp] theorem Status.clearSticky_v16 : (f.clearSticky).v16 = f.v16 := rfl
@[simp] theorem Status.clearSticky_v7 : (f.clearSticky).v7 = f.v7 := rfl
@[simp] theorem Status.clearSticky_vfail : (f.clearSticky).vfail = f.vfail := rfl
@[simp] theorem Status.clearSticky_vidx : (f.clearSticky).vidx = f.vidx := rfl
@[simp] theorem Status.clearSticky_ill : (f.clearSticky).ill = false := rfl
@[simp] theorem Status.clearSticky_gate : (f.clearSticky).gate = false := rfl
@[simp] theorem Status.clearSticky_berr : (f.clearSticky).berr = false := rfl

@[simp] theorem Status.close16_v16 : (f.close16).v16 = false := rfl
@[simp] theorem Status.close16_v7 : (f.close16).v7 = f.v7 := rfl
@[simp] theorem Status.close16_vfail : (f.close16).vfail = f.vfail := rfl
@[simp] theorem Status.close16_vidx : (f.close16).vidx = f.vidx := rfl
@[simp] theorem Status.close16_ill : (f.close16).ill = f.ill := rfl
@[simp] theorem Status.close16_gate : (f.close16).gate = f.gate := rfl
@[simp] theorem Status.close16_berr : (f.close16).berr = f.berr := rfl

@[simp] theorem Status.close7_v16 : (f.close7).v16 = f.v16 := rfl
@[simp] theorem Status.close7_v7 : (f.close7).v7 = false := rfl
@[simp] theorem Status.close7_vfail : (f.close7).vfail = f.vfail := rfl
@[simp] theorem Status.close7_vidx : (f.close7).vidx = f.vidx := rfl
@[simp] theorem Status.close7_ill : (f.close7).ill = f.ill := rfl
@[simp] theorem Status.close7_gate : (f.close7).gate = f.gate := rfl
@[simp] theorem Status.close7_berr : (f.close7).berr = f.berr := rfl

@[simp] theorem Status.beginVerify_v16 (s16 s7 : Bool) : (f.beginVerify s16 s7).v16 = if s16 then false else f.v16 := rfl
@[simp] theorem Status.beginVerify_v7 (s16 s7 : Bool) : (f.beginVerify s16 s7).v7 = if s7 then false else f.v7 := rfl
@[simp] theorem Status.beginVerify_vfail (s16 s7 : Bool) : (f.beginVerify s16 s7).vfail = false := rfl
@[simp] theorem Status.beginVerify_vidx (s16 s7 : Bool) : (f.beginVerify s16 s7).vidx = 0#3 := rfl
@[simp] theorem Status.beginVerify_ill (s16 s7 : Bool) : (f.beginVerify s16 s7).ill = f.ill := rfl
@[simp] theorem Status.beginVerify_gate (s16 s7 : Bool) : (f.beginVerify s16 s7).gate = f.gate := rfl
@[simp] theorem Status.beginVerify_berr (s16 s7 : Bool) : (f.beginVerify s16 s7).berr = f.berr := rfl

@[simp] theorem Status.failAt_v16 (k : BitVec 3) : (f.failAt k).v16 = f.v16 := rfl
@[simp] theorem Status.failAt_v7 (k : BitVec 3) : (f.failAt k).v7 = f.v7 := rfl
@[simp] theorem Status.failAt_vfail (k : BitVec 3) : (f.failAt k).vfail = true := rfl
@[simp] theorem Status.failAt_vidx (k : BitVec 3) : (f.failAt k).vidx = k := rfl
@[simp] theorem Status.failAt_ill (k : BitVec 3) : (f.failAt k).ill = f.ill := rfl
@[simp] theorem Status.failAt_gate (k : BitVec 3) : (f.failAt k).gate = f.gate := rfl
@[simp] theorem Status.failAt_berr (k : BitVec 3) : (f.failAt k).berr = f.berr := rfl

@[simp] theorem Status.openGates_v16 (s16 s7 : Bool) : (f.openGates s16 s7).v16 = if s16 then true else f.v16 := rfl
@[simp] theorem Status.openGates_v7 (s16 s7 : Bool) : (f.openGates s16 s7).v7 = if s7 then true else f.v7 := rfl
@[simp] theorem Status.openGates_vfail (s16 s7 : Bool) : (f.openGates s16 s7).vfail = f.vfail := rfl
@[simp] theorem Status.openGates_vidx (s16 s7 : Bool) : (f.openGates s16 s7).vidx = f.vidx := rfl
@[simp] theorem Status.openGates_ill (s16 s7 : Bool) : (f.openGates s16 s7).ill = f.ill := rfl
@[simp] theorem Status.openGates_gate (s16 s7 : Bool) : (f.openGates s16 s7).gate = f.gate := rfl
@[simp] theorem Status.openGates_berr (s16 s7 : Bool) : (f.openGates s16 s7).berr = f.berr := rfl

@[simp] theorem Status.record_ill_v16 : (f.record .ill).v16 = f.v16 := rfl
@[simp] theorem Status.record_ill_v7 : (f.record .ill).v7 = f.v7 := rfl
@[simp] theorem Status.record_ill_vfail : (f.record .ill).vfail = f.vfail := rfl
@[simp] theorem Status.record_ill_vidx : (f.record .ill).vidx = f.vidx := rfl
@[simp] theorem Status.record_ill_ill : (f.record .ill).ill = true := rfl
@[simp] theorem Status.record_ill_gate : (f.record .ill).gate = f.gate := rfl
@[simp] theorem Status.record_ill_berr : (f.record .ill).berr = f.berr := rfl

@[simp] theorem Status.record_gate_v16 : (f.record .gate).v16 = f.v16 := rfl
@[simp] theorem Status.record_gate_v7 : (f.record .gate).v7 = f.v7 := rfl
@[simp] theorem Status.record_gate_vfail : (f.record .gate).vfail = f.vfail := rfl
@[simp] theorem Status.record_gate_vidx : (f.record .gate).vidx = f.vidx := rfl
@[simp] theorem Status.record_gate_ill : (f.record .gate).ill = f.ill := rfl
@[simp] theorem Status.record_gate_gate : (f.record .gate).gate = true := rfl
@[simp] theorem Status.record_gate_berr : (f.record .gate).berr = f.berr := rfl

@[simp] theorem Status.record_berr_v16 : (f.record .berr).v16 = f.v16 := rfl
@[simp] theorem Status.record_berr_v7 : (f.record .berr).v7 = f.v7 := rfl
@[simp] theorem Status.record_berr_vfail : (f.record .berr).vfail = f.vfail := rfl
@[simp] theorem Status.record_berr_vidx : (f.record .berr).vidx = f.vidx := rfl
@[simp] theorem Status.record_berr_ill : (f.record .berr).ill = f.ill := rfl
@[simp] theorem Status.record_berr_gate : (f.record .berr).gate = f.gate := rfl
@[simp] theorem Status.record_berr_berr : (f.record .berr).berr = true := rfl

/-- Recording an error never clears a sticky bit. -/
theorem Status.record_keeps_sticky (e : Error) :
    (f.ill = true → (f.record e).ill = true) ∧ (f.gate = true → (f.record e).gate = true) ∧
      (f.berr = true → (f.record e).berr = true) := by
  cases e <;> simp

/-- Recording an error leaves the gate bits and the result fields alone. -/
theorem Status.record_keeps_result (e : Error) :
    (f.record e).v16 = f.v16 ∧ (f.record e).v7 = f.v7 ∧ (f.record e).vfail = f.vfail ∧ (f.record e).vidx = f.vidx := by
  cases e <;> simp

end Sys2Proof.Machine
end

