-- ==== Sys2Proof/Laws/Bus.lean ====
section
/-! SUPPORT. What stands at each offset, what each command and each access answers, and, once, everything a host access and
a step can do (`perform_cases`, `step_cases`): later proofs cite these and do not unfold the interface. -/

namespace Sys2Proof.Machine

/-! ## The meanings, one equation per command -/

variable (s : State)

theorem exec_nop : exec .nop s = .next s := rfl

theorem exec_build16 :
    exec .build16 s = .next { s with tbl16 := built16, status := { s.status with v16 := false } } := by
  simp only [exec, execBuild16, State.withTbl16, State.withStatus, Status.close16]

theorem exec_build7 : exec .build7 s = .next { s with tbl7 := built7, status := { s.status with v7 := false } } := by
  simp only [exec, execBuild7, State.withTbl7, State.withStatus, Status.close7]

theorem exec_set16 (v : Half) : exec (.set16 v) s = .next { s with acc16 := v } := rfl

theorem exec_set7 (v : Byte) : exec (.set7 v) s = .next { s with acc7 := v } := rfl

theorem exec_upd16 (b : Byte) : exec (.upd16 b) s = .next { s with acc16 := upd16 s.tbl16 s.acc16 b } := rfl

theorem exec_upd7 (b : Byte) : exec (.upd7 b) s = .next { s with acc7 := upd7 s.tbl7 s.acc7 b } := rfl

theorem exec_wr16 (i : Byte) (v : Half) :
    exec (.wr16 i v) s =
      .next { s with tbl16 := Table16.write s.tbl16 i v, status := { s.status with v16 := false } } := rfl

theorem exec_wr7 (i v : Byte) :
    exec (.wr7 i v) s =
      .next { s with tbl7 := Table7.write s.tbl7 i v, status := { s.status with v7 := false } } := rfl

theorem exec_clrerr :
    exec .clrerr s = .next { s with status := { s.status with ill := false, gate := false, berr := false } } := rfl

theorem exec_verify {set : BitVec 2} (h : set ≠ 3#2) :
    exec (.verify set) s = .next { s with status := verifiedStatus set s.tbl16 s.tbl7 s.status } := by
  simp [exec, execVerify, h, State.withStatus]

theorem exec_verify_illegal :
    exec (.verify 3#2) s = .next { s with status := { s.status with ill := true } } := rfl

/-- No command changes the operations waiting, the values read or CTRL.ORDER. -/
theorem exec_keeps {i : Instr} {s t : State} (h : exec i s = .next t) :
    t.pending = s.pending ∧ t.reads = s.reads ∧ t.order = s.order := by
  cases i <;> simp only [exec, execNop, execBuild16, execBuild7, execSet16, execSet7, execUpd16, execUpd7, execVerify,
    execWr16, execWr7, execClrerr, Host.Outcome.next.injEq] at h <;> subst h <;> (try split) <;> simp

/-! ## The address map -/

theorem locate_win16 (k : BitVec 9) : locate (0x400#12 + k.setWidth 12) = .win16 k := by
  revert k; decide +kernel

theorem locate_win7 (k : Byte) : locate (0x600#12 + k.setWidth 12) = .win7 k := by
  revert k; decide +kernel

/-- Where a target stands (R51). -/
def Target.offset : Target → Option Offset
  | .cmd => some 0x000#12
  | .status => some 0x004#12
  | .ctrl => some 0x008#12
  | .acc16 => some 0x00C#12
  | .acc7 => some 0x010#12
  | .dig7 => some 0x014#12
  | .param => some 0x018#12
  | .win16 k => some (0x400#12 + k.setWidth 12)
  | .win7 k => some (0x600#12 + k.setWidth 12)
  | .unmapped => none

/-- An offset inside a window of 2^n bytes is the window's base and a byte offset of n bits. -/
theorem window_offset {off base : Offset} {n : Nat} (_hn : n ≤ 12) (hb : base.toNat ≤ off.toNat)
    (hlt : off.toNat - base.toNat < 2 ^ n) : off = base + ((off - base).setWidth n).setWidth 12 := by
  apply BitVec.eq_of_toNat_eq
  have := base.isLt; have := off.isLt
  have hs : (off - base).toNat = off.toNat - base.toNat := by rw [BitVec.toNat_sub]; omega
  have h12 : off.toNat - base.toNat < 2 ^ 12 := by omega
  simp only [BitVec.toNat_add, BitVec.toNat_setWidth, hs, Nat.mod_eq_of_lt hlt, Nat.mod_eq_of_lt h12]
  omega

/-- The map read backwards: a mapped offset is where its target stands. -/
theorem offset_locate (off : Offset) : locate off = .unmapped ∨ (locate off).offset = some off := by
  have win : ∀ (base top : Offset) (n : Nat), n ≤ 12 → top.toNat - base.toNat < 2 ^ n → base ≤ off ∧ off ≤ top →
      base + ((off - base).setWidth n).setWidth 12 = off := by
    intro base top n hn hw h
    have hb := BitVec.le_def.mp h.1; have ht := BitVec.le_def.mp h.2
    exact (window_offset hn hb (by omega)).symm
  unfold locate
  split_ifs
  case pos h => right; simp only [Target.offset, h]
  case pos h => right; simp only [Target.offset, h]
  case pos h => right; simp only [Target.offset, h]
  case pos h => right; simp only [Target.offset, h]
  case pos h => right; simp only [Target.offset, h]
  case pos h => right; simp only [Target.offset, h]
  case pos h => right; simp only [Target.offset, h]
  case pos h => exact .inr (congrArg some (win _ _ 9 (by omega) (by decide) h))
  case pos h => exact .inr (congrArg some (win _ _ 8 (by omega) (by decide) h))
  case neg => exact .inl rfl

/-- The map read forwards. -/
theorem locate_offset {t : Target} {off : Offset} (h : t.offset = some off) : locate off = t := by
  cases t with
  | win16 k => simp only [Target.offset, Option.some.injEq] at h; subst h; exact locate_win16 k
  | win7 k => simp only [Target.offset, Option.some.injEq] at h; subst h; exact locate_win7 k
  | unmapped => exact absurd h (by simp [Target.offset])
  | _ => simp only [Target.offset, Option.some.injEq] at h; subst h; rfl

theorem offset_of_locate {t : Target} {off : Offset} (h : locate off = t) (ht : t ≠ .unmapped) : t.offset = some off := by
  subst h; exact (offset_locate off).resolve_left ht

theorem locate_eq_cmd {off : Offset} : locate off = .cmd ↔ off = 0x000#12 :=
  ⟨fun h => (Option.some.inj (offset_of_locate h (by simp))).symm, fun h => by subst h; rfl⟩

theorem locate_eq_ctrl {off : Offset} : locate off = .ctrl ↔ off = 0x008#12 :=
  ⟨fun h => (Option.some.inj (offset_of_locate h (by simp))).symm, fun h => by subst h; rfl⟩

theorem locate_eq_win16 {off : Offset} {k : BitVec 9} : locate off = .win16 k ↔ off = 0x400#12 + k.setWidth 12 :=
  ⟨fun h => (Option.some.inj (offset_of_locate h (by simp))).symm, fun h => by subst h; exact locate_win16 k⟩

theorem locate_eq_win7 {off : Offset} {k : Byte} : locate off = .win7 k ↔ off = 0x600#12 + k.setWidth 12 :=
  ⟨fun h => (Option.some.inj (offset_of_locate h (by simp))).symm, fun h => by subst h; exact locate_win7 k⟩

/-- Which offsets each group of R52's rows names, as targets. -/
theorem listed_rd32 (s : State) (off : Offset) : ListedAccess (.rd32 off) ↔ (registerWord s (locate off)).isSome = true := by
  constructor
  · have at_register : ∀ o : Offset, (registerWord s (locate o)).isSome = true → off.toNat = o.toNat →
        (registerWord s (locate off)).isSome = true := fun o ho h => by rwa [BitVec.eq_of_toNat_eq h]
    rintro (h | h | h | h | h | h)
    · exact at_register 0x004#12 rfl h
    · exact at_register 0x008#12 rfl h
    · exact at_register 0x00C#12 rfl h
    · exact at_register 0x010#12 rfl h
    · exact at_register 0x014#12 rfl h
    · exact at_register 0x018#12 rfl h
  · cases hl : locate off with
    | cmd | win16 _ | win7 _ | unmapped => intro h; exact absurd h (by simp [registerWord])
    | _ => intro _; cases offset_of_locate hl (by simp); simp [ListedAccess]

theorem listed_rd8 (off : Offset) :
    ListedAccess (.rd8 off) ↔ (∃ k, locate off = .win16 k) ∨ (∃ k, locate off = .win7 k) := by
  constructor
  · rintro (⟨hl, hu⟩ | ⟨hl, hu⟩)
    · exact .inl ⟨_, locate_eq_win16.mpr (window_offset (by omega) hl (by simp; omega))⟩
    · exact .inr ⟨_, locate_eq_win7.mpr (window_offset (by omega) hl (by simp; omega))⟩
  · rintro (⟨k, hk⟩ | ⟨k, hk⟩)
    · have := k.isLt
      rw [locate_eq_win16.mp hk]; left
      simp only [BitVec.toNat_add, BitVec.toNat_setWidth, BitVec.toNat_ofNat]; omega
    · have := k.isLt
      rw [locate_eq_win7.mp hk]; right
      simp only [BitVec.toNat_add, BitVec.toNat_setWidth, BitVec.toNat_ofNat]; omega

theorem listed_wr32 (off : Offset) (v : Word) : ListedAccess (.wr32 off v) ↔ locate off = .cmd ∨ locate off = .ctrl := by
  rw [ListedAccess, locate_eq_cmd, locate_eq_ctrl]
  constructor
  · rintro (h | h)
    · exact .inl (BitVec.eq_of_toNat_eq h)
    · exact .inr (BitVec.eq_of_toNat_eq h)
  · rintro (rfl | rfl) <;> simp

/-! ## Everything an access and a step can do -/

/-- A 4-byte write, in full. -/
theorem write32_cases (off : Offset) (v : Word) (s : State) :
    (off = 0x000#12 ∧ (∃ i, decode v = .ok i) ∧ write32 off v s = runCommand v s) ∨
    (off = 0x000#12 ∧ (∃ e, decode v = .error e) ∧ write32 off v s = .next (raise .ill s)) ∨
    (off = 0x008#12 ∧ write32 off v s = .next (writeCtrl v s)) ∨
    (¬ ListedAccess (.wr32 off v) ∧ write32 off v s = .next (raise .berr s)) := by
  rcases hl : locate off <;> simp only [listed_wr32, hl, ← locate_eq_cmd, ← locate_eq_ctrl, write32] <;> simp
  rcases hd : decode v <;> simp [runCommand, hd]

/-- Every access, in full: what the next state is and when. -/
theorem perform_cases {a : Access} {s t : State} (h : perform a s = .next t) :
    (∃ w i, a = .wr32 0x000#12 w ∧ decode w = .ok i ∧ exec i s = .next t) ∨
    (∃ w e, a = .wr32 0x000#12 w ∧ decode w = .error e ∧ t = raise .ill s) ∨
    (∃ v, a = .wr32 0x008#12 v ∧ t = writeCtrl v s) ∨
    (∃ off v, a = .rd32 off ∧ ListedAccess a ∧ registerWord s (locate off) = some v ∧ t = s.reply (.word v)) ∨
    (∃ k : BitVec 9, a = .rd8 (0x400#12 + k.setWidth 12) ∧ t = readWin16 k s) ∨
    (∃ k : Byte, a = .rd8 (0x600#12 + k.setWidth 12) ∧ t = readWin7 k s) ∨
    (¬ ListedAccess a ∧ t = { raise .berr s with reads := s.reads ++ refusedReply a }) := by
  cases a with
  | wr32 off v =>
    rcases write32_cases off v s with ⟨rfl, ⟨i, hi⟩, hw⟩ | ⟨rfl, ⟨e, he⟩, hw⟩ | ⟨rfl, hw⟩ | ⟨hl, hw⟩ <;>
      simp only [perform, hw] at h
    · simp only [runCommand, hi] at h; exact .inl ⟨v, i, rfl, hi, h⟩
    · cases h; exact .inr (.inl ⟨v, e, rfl, he, rfl⟩)
    · cases h; exact .inr (.inr (.inl ⟨v, rfl, rfl⟩))
    · cases h
      exact .inr (.inr (.inr (.inr (.inr (.inr ⟨hl, by simp [raise, refusedReply, State.withStatus]⟩)))))
  | wr8 off v =>
    cases h
    exact .inr (.inr (.inr (.inr (.inr (.inr ⟨id, by simp [write8, raise, refusedReply, State.withStatus]⟩)))))
  | rd32 off =>
    cases h
    cases hv : registerWord s (locate off) with
    | some v =>
      exact .inr (.inr (.inr (.inl ⟨off, v, rfl, (listed_rd32 s off).mpr (by simp [hv]), hv, by simp [read32, hv]⟩)))
    | none =>
      exact .inr (.inr (.inr (.inr (.inr (.inr ⟨by simp [listed_rd32 s off, hv], by simp [read32, hv, refusedReply, State.reply]⟩)))))
  | rd8 off =>
    cases h
    cases hl : locate off with
    | win16 k => exact .inr (.inr (.inr (.inr (.inl ⟨k, by rw [locate_eq_win16.mp hl], by simp [read8, hl]⟩))))
    | win7 k => exact .inr (.inr (.inr (.inr (.inr (.inl ⟨k, by rw [locate_eq_win7.mp hl], by simp [read8, hl]⟩)))))
    | _ => exact .inr (.inr (.inr (.inr (.inr (.inr ⟨by simp [listed_rd8, hl], by simp [read8, hl, refusedReply, State.reply]⟩)))))

@[simp] theorem step_idle {s : State} (h : s.pending = []) : step s = .next s := by simp [step, h]

/-- A run of no steps. -/
@[simp] theorem run_zero (s : State) : run 0 s = .next s := rfl

theorem step_serves {s : State} {op : Input} {rest : List Input} (h : s.pending = op :: rest) :
    step s = serve op (s.withPending rest) := by simp [step, h]

/-- Every step, in full: nothing waits, the platform resets the block, or the host's next access is performed. -/
theorem step_cases {s t : State} (h : step s = .next t) :
    (s.pending = [] ∧ t = s) ∨
    (∃ abandoned rest, s.pending = .reset abandoned :: rest ∧ t = resetBlock (s.withPending rest)) ∨
    (∃ a rest, s.pending = .host a :: rest ∧ perform a (s.withPending rest) = .next t) := by
  cases hp : s.pending with
  | nil => rw [step_idle hp] at h; cases h; exact .inl ⟨rfl, rfl⟩
  | cons op rest =>
    rw [step_serves hp] at h
    cases op with
    | reset ab => cases h; exact .inr (.inl ⟨ab, rest, rfl, rfl⟩)
    | host a => exact .inr (.inr ⟨a, rest, rfl, h⟩)

/-- A run takes its first step and runs on from there. -/
theorem run_succ {s t : State} (h : step s = .next t) (n : Nat) : run (n + 1) s = run n t := by
  have hc : core.step s = .next t := h
  simp only [run, Host.Core.run]
  rw [hc]

/-- A run of `m + n` steps is a run of `m` steps and, from where it ends, one of `n`. -/
theorem run_add {m : Nat} {s t : State} (h : run m s = .next t) (n : Nat) : run (m + n) s = run n t := by
  induction m generalizing s with
  | zero => cases h; rw [Nat.zero_add]
  | succ m ih =>
    rw [Nat.add_right_comm]
    cases hs : step s with
    | next u => rw [run_succ hs] at h ⊢; exact ih h
    | fault r => nomatch r
    | refused r =>
      have hc : core.step s = .refused r := hs
      simp only [run, Host.Core.run] at h
      rw [hc] at h
      cases h

end Sys2Proof.Machine
end

