-- ==== Sys2Proof/Laws/Tables.lean ====
section
/-! SUPPORT. What reading a table entry gives after each way of writing one: the basic laws of the block's two RAMs, and
the values the builders leave. -/

namespace Sys2Proof.Machine

@[simp] theorem Table16.read_write_same (t : Table16) (i : Byte) (v : Half) :
    Table16.read (Table16.write t i v) i = v := by
  simp [Table16.read, Table16.write]

theorem Table16.read_write_other (t : Table16) {i j : Byte} (v : Half) (h : j ≠ i) :
    Table16.read (Table16.write t i v) j = Table16.read t j := by
  have : i.toNat ≠ j.toNat := fun e => h (BitVec.eq_of_toNat_eq e.symm)
  simp [Table16.read, Table16.write, this]

@[simp] theorem Table7.read_write_same (t : Table7) (i v : Byte) : Table7.read (Table7.write t i v) i = v := by
  simp [Table7.read, Table7.write]

theorem Table7.read_write_other (t : Table7) {i j : Byte} (v : Byte) (h : j ≠ i) :
    Table7.read (Table7.write t i v) j = Table7.read t j := by
  have : i.toNat ≠ j.toNat := fun e => h (BitVec.eq_of_toNat_eq e.symm)
  simp [Table7.read, Table7.write, this]

@[simp] theorem Table16.read_built16 (i : Byte) : Table16.read built16 i = entry16 i := by
  unfold Table16.read built16
  exact (Vector.getElem_ofFn i.isLt).trans (congrArg entry16 (BitVec.eq_of_toNat_eq rfl))

@[simp] theorem Table7.read_built7 (i : Byte) : Table7.read built7 i = entry7 i := by
  unfold Table7.read built7
  exact (Vector.getElem_ofFn i.isLt).trans (congrArg entry7 (BitVec.eq_of_toNat_eq rfl))

@[simp] theorem Table16.read_zero (i : Byte) : Table16.read (Vector.replicate 256 0#16) i = 0#16 := by
  simp [Table16.read]

@[simp] theorem Table7.read_zero (i : Byte) : Table7.read (Vector.replicate 256 0#8) i = 0#8 := by
  simp [Table7.read]

/-- A table is what its reads give. -/
theorem Table16.ext_read {t u : Table16} (h : ∀ i, Table16.read t i = Table16.read u i) : t = u := by
  apply Vector.ext
  intro i hi
  have := h (BitVec.ofNat 8 i)
  simpa [Table16.read, Nat.mod_eq_of_lt hi] using this

theorem Table7.ext_read {t u : Table7} (h : ∀ i, Table7.read t i = Table7.read u i) : t = u := by
  apply Vector.ext
  intro i hi
  have := h (BitVec.ofNat 8 i)
  simpa [Table7.read, Nat.mod_eq_of_lt hi] using this

end Sys2Proof.Machine
end

