-- ==== Sys2Proof/Laws/Codec.lean ====
section
/-! SUPPORT. Digests and table changes: a fold that never looks an entry up does not depend on it (42_verifier.md R166 (c)). -/

namespace Sys2Proof.Machine

/-- Folding `m` from `c` through `t` never looks up entry `i`. -/
def avoids16 (t : Table16) (i : Byte) : Half → List Byte → Bool
  | _, [] => true
  | c, b :: m => (c >>> 8).setWidth 8 ^^^ b != i && avoids16 t i (upd16 t c b) m

theorem foldl_write_of_avoids16 {t : Table16} {i : Byte} {m : List Byte} {c : Half} (v : Half)
    (h : avoids16 t i c m = true) : m.foldl (upd16 (Table16.write t i v)) c = m.foldl (upd16 t) c := by
  induction m generalizing c with
  | nil => rfl
  | cons b m ih =>
    simp only [avoids16, Bool.and_eq_true, bne_iff_ne] at h
    have hb : upd16 (Table16.write t i v) c b = upd16 t c b := by rw [upd16, upd16, Table16.read_write_other _ _ h.1]
    simp only [List.foldl_cons, hb]
    exact ih h.2

/-- Folding `m` from `c` through `t` never looks up entry `i`. -/
def avoids7 (t : Table7) (i : Byte) : Byte → List Byte → Bool
  | _, [] => true
  | c, b :: m => (c <<< 1) ^^^ b != i && avoids7 t i (upd7 t c b) m

theorem foldl_write_of_avoids7 {t : Table7} {i : Byte} {m : List Byte} {c : Byte} (v : Byte)
    (h : avoids7 t i c m = true) : m.foldl (upd7 (Table7.write t i v)) c = m.foldl (upd7 t) c := by
  induction m generalizing c with
  | nil => rfl
  | cons b m ih =>
    simp only [avoids7, Bool.and_eq_true, bne_iff_ne] at h
    have hb : upd7 (Table7.write t i v) c b = upd7 t c b := by rw [upd7, upd7, Table7.read_write_other _ _ h.1]
    simp only [List.foldl_cons, hb]
    exact ih h.2

/-- `avoids16` says that no byte of `m` uses entry `i`. -/
theorem avoids16_iff {t : Table16} {i : Byte} {m : List Byte} {c : Half} :
    avoids16 t i c m = true ↔
      ∀ pre b post, m = pre ++ b :: post → i ≠ (pre.foldl (upd16 t) c).extractLsb' 8 8 ^^^ b := by
  have hi : ∀ c : Half, (c >>> 8).setWidth 8 = c.extractLsb' 8 8 := fun _ => rfl
  induction m generalizing c with
  | nil => simp [avoids16]
  | cons b m ih =>
    rw [avoids16, Bool.and_eq_true, hi]
    refine (and_congr bne_iff_ne ih).trans ?_
    constructor
    · rintro ⟨h0, h⟩ pre b' post he
      cases pre with
      | nil => cases he; exact fun e => h0 e.symm
      | cons p pre => cases he; exact h pre b' post rfl
    · exact fun h => ⟨fun e => h [] b m rfl e.symm, fun pre b' post he => h (b :: pre) b' post (by rw [he]; rfl)⟩

/-- What vector 0's digest does not look up can be changed (R166 (c)). -/
theorem avoids16_of_not_looksUp {t : Table16} {i : Byte} {m : List Byte} (h : ¬ LooksUp16 t m i) :
    avoids16 t i 0x0000#16 m = true :=
  avoids16_iff.mpr fun pre b post hm hi => h ⟨pre, b, post, hm, hi⟩

/-- UPD16 on the built table, without the table: the kernel evaluates this form quickly. -/
theorem upd16_built16 (c : Half) (b : Byte) :
    upd16 built16 c b = entry16 ((c >>> 8).setWidth 8 ^^^ b) ^^^ (c <<< 8) := by
  simp [upd16]

/-- UPD7 on the built table, without the table. -/
theorem upd7_built7 (c b : Byte) : upd7 built7 c b = entry7 ((c <<< 1) ^^^ b) := by simp [upd7]

/-- The digest of one byte repeated is that many updates; `Function.iterate_add_apply` cuts it into parts. -/
theorem digest16_replicate (t : Table16) (n : Nat) (b : Byte) :
    digest16 t (List.replicate n b) = (fun c => upd16 t c b)^[n] 0x0000#16 := by
  have h : ∀ c : Half, (List.replicate n b).foldl (upd16 t) c = (fun c => upd16 t c b)^[n] c := by
    induction n with
    | zero => intro c; rfl
    | succ n ih => intro c; simp [List.replicate_succ, ih]
  exact h _

end Sys2Proof.Machine
end

