-- ==== Sys2Proof/Laws/Encoding.lean ====
section
/-! SUPPORT. The fields of a word as numbers, the fields of an assembled word (30_encoding.md R80), and a word rebuilt from
its fields. Field facts become linear arithmetic: `omega` closes what follows from them. -/

namespace Sys2Proof.Machine

/-- Concatenation as arithmetic. -/
theorem toNat_append_add {m n : Nat} (x : BitVec m) (y : BitVec n) :
    (x ++ y).toNat = x.toNat * 2 ^ n + y.toNat := by
  rw [BitVec.toNat_append, ← Nat.shiftLeft_add_eq_or_of_lt y.isLt, Nat.shiftLeft_eq]

theorem assemble_toNat (op : BitVec 4) (idx : Byte) (data : Half) :
    (assemble op idx data).toNat = op.toNat * 2 ^ 28 + idx.toNat * 2 ^ 16 + data.toNat := by
  simp only [assemble, toNat_append_add, BitVec.toNat_ofNat]; omega

variable (w : Word)

theorem opField_toNat : (opField w).toNat = w.toNat / 2 ^ 28 := by
  simp only [opField, BitVec.extractLsb'_toNat, Nat.shiftRight_eq_div_pow]
  have := w.isLt; omega

theorem rsvField_toNat : (rsvField w).toNat = w.toNat / 2 ^ 24 % 2 ^ 4 := by
  simp only [rsvField, BitVec.extractLsb'_toNat, Nat.shiftRight_eq_div_pow]

theorem idxField_toNat : (idxField w).toNat = w.toNat / 2 ^ 16 % 2 ^ 8 := by
  simp only [idxField, BitVec.extractLsb'_toNat, Nat.shiftRight_eq_div_pow]

theorem dataField_toNat : (dataField w).toNat = w.toNat % 2 ^ 16 := by
  simp only [dataField, BitVec.extractLsb'_toNat, Nat.shiftRight_zero]

theorem dataHigh_toNat : (dataHigh w).toNat = w.toNat / 2 ^ 8 % 2 ^ 8 := by
  simp only [dataHigh, BitVec.extractLsb'_toNat, Nat.shiftRight_eq_div_pow]

theorem byteField_toNat : (byteField w).toNat = w.toNat % 2 ^ 8 := by
  simp only [byteField, BitVec.extractLsb'_toNat, Nat.shiftRight_zero]

theorem verifyHigh_toNat : (verifyHigh w).toNat = w.toNat / 2 ^ 2 % 2 ^ 6 := by
  simp only [verifyHigh, BitVec.extractLsb'_toNat, Nat.shiftRight_eq_div_pow]

theorem setField_toNat : (setField w).toNat = w.toNat % 2 ^ 2 := by
  simp only [setField, BitVec.extractLsb'_toNat, Nat.shiftRight_zero]

/-- Widening keeps the value. -/
theorem zext16_toNat {n : Nat} (h : n ≤ 16) (v : BitVec n) : (zext16 v).toNat = v.toNat := by
  have := Nat.pow_le_pow_right (n := 2) (by omega) h
  have := v.isLt
  simp only [zext16, BitVec.toNat_setWidth]; exact Nat.mod_eq_of_lt (by omega)

theorem zext32_toNat {n : Nat} (h : n ≤ 32) (v : BitVec n) : (zext32 v).toNat = v.toNat := by
  have := Nat.pow_le_pow_right (n := 2) (by omega) h
  have := v.isLt
  simp only [zext32, BitVec.toNat_setWidth]; exact Nat.mod_eq_of_lt (by omega)

variable (op : BitVec 4) (idx : Byte) (data : Half)

theorem opField_assemble : opField (assemble op idx data) = op := by
  apply BitVec.eq_of_toNat_eq
  have := op.isLt; have := idx.isLt; have := data.isLt
  rw [opField_toNat, assemble_toNat]; omega

theorem rsvField_assemble : rsvField (assemble op idx data) = 0#4 := by
  apply BitVec.eq_of_toNat_eq
  have := op.isLt; have := idx.isLt; have := data.isLt
  rw [rsvField_toNat, assemble_toNat, BitVec.toNat_ofNat]; omega

theorem idxField_assemble : idxField (assemble op idx data) = idx := by
  apply BitVec.eq_of_toNat_eq
  have := op.isLt; have := idx.isLt; have := data.isLt
  rw [idxField_toNat, assemble_toNat]; omega

theorem dataField_assemble : dataField (assemble op idx data) = data := by
  apply BitVec.eq_of_toNat_eq
  have := op.isLt; have := idx.isLt; have := data.isLt
  rw [dataField_toNat, assemble_toNat]; omega

/-- The parts of DATA that an 8-bit operand uses and leaves unused (R82). -/
theorem byteField_assemble_zext (b : Byte) : byteField (assemble op idx (zext16 b)) = b := by
  apply BitVec.eq_of_toNat_eq
  have := op.isLt; have := idx.isLt; have := b.isLt
  rw [byteField_toNat, assemble_toNat, zext16_toNat (by omega)]; omega

theorem dataHigh_assemble_zext (b : Byte) : dataHigh (assemble op idx (zext16 b)) = 0#8 := by
  apply BitVec.eq_of_toNat_eq
  have := op.isLt; have := idx.isLt; have := b.isLt
  rw [dataHigh_toNat, assemble_toNat, zext16_toNat (by omega), BitVec.toNat_ofNat]; omega

/-- The parts of DATA that VERIFY uses and leaves unused (R82). -/
theorem setField_assemble_zext (set : BitVec 2) : setField (assemble op idx (zext16 set)) = set := by
  apply BitVec.eq_of_toNat_eq
  have := op.isLt; have := idx.isLt; have := set.isLt
  rw [setField_toNat, assemble_toNat, zext16_toNat (by omega)]; omega

theorem verify_unused_assemble_zext (set : BitVec 2) :
    dataHigh (assemble op idx (zext16 set)) = 0#8 ∧ verifyHigh (assemble op idx (zext16 set)) = 0#6 := by
  have := op.isLt; have := idx.isLt; have := set.isLt
  constructor <;> apply BitVec.eq_of_toNat_eq
  · rw [dataHigh_toNat, assemble_toNat, zext16_toNat (by omega), BitVec.toNat_ofNat]; omega
  · rw [verifyHigh_toNat, assemble_toNat, zext16_toNat (by omega), BitVec.toNat_ofNat]; omega

/-- A word whose RSV is 0 is its other fields, assembled. -/
theorem assemble_fields (h : rsvField w = 0#4) : assemble (opField w) (idxField w) (dataField w) = w := by
  apply BitVec.eq_of_toNat_eq
  have := congrArg BitVec.toNat h
  rw [rsvField_toNat, BitVec.toNat_ofNat] at this
  have := w.isLt
  rw [assemble_toNat, opField_toNat, idxField_toNat, dataField_toNat]; omega

/-- `whenZero` answers its command exactly when the bits are zero. -/
theorem whenZero_ok {z : Bool} {i j : Instr} : whenZero z i = .ok j ↔ z = true ∧ i = j := by
  cases z <;> simp [whenZero]

theorem whenZero_error {z : Bool} {i : Instr} {e : DecodeError} :
    whenZero z i = .error e ↔ z = false ∧ e = .mustBeZero := by
  cases z <;> simp [whenZero, eq_comm]

/-- The sixteen values of OP. -/
theorem op_values : ∀ op : BitVec 4, op = 0#4 ∨ op = 1#4 ∨ op = 2#4 ∨ op = 3#4 ∨ op = 4#4 ∨ op = 5#4 ∨ op = 6#4 ∨
    op = 7#4 ∨ op = 8#4 ∨ op = 9#4 ∨ op = 10#4 ∨ 11 ≤ op.toNat := by decide

/-- Everything a word that decodes can be (R82, R84): the fields of its row, and its command. -/
theorem decode_ok_cases {w : Word} {i : Instr} (h : decode w = .ok i) : rsvField w = 0#4 ∧
    ((opField w = 0#4 ∧ idxField w = 0#8 ∧ dataField w = 0#16 ∧ i = .nop) ∨
     (opField w = 1#4 ∧ idxField w = 0#8 ∧ dataField w = 0#16 ∧ i = .build16) ∨
     (opField w = 2#4 ∧ idxField w = 0#8 ∧ dataField w = 0#16 ∧ i = .build7) ∨
     (opField w = 3#4 ∧ idxField w = 0#8 ∧ i = .set16 (dataField w)) ∨
     (opField w = 4#4 ∧ idxField w = 0#8 ∧ dataHigh w = 0#8 ∧ i = .set7 (byteField w)) ∨
     (opField w = 5#4 ∧ idxField w = 0#8 ∧ dataHigh w = 0#8 ∧ i = .upd16 (byteField w)) ∨
     (opField w = 6#4 ∧ idxField w = 0#8 ∧ dataHigh w = 0#8 ∧ i = .upd7 (byteField w)) ∨
     (opField w = 7#4 ∧ idxField w = 0#8 ∧ dataHigh w = 0#8 ∧ verifyHigh w = 0#6 ∧ setField w ≠ 3#2 ∧
       i = .verify (setField w)) ∨
     (opField w = 8#4 ∧ i = .wr16 (idxField w) (dataField w)) ∨
     (opField w = 9#4 ∧ dataHigh w = 0#8 ∧ i = .wr7 (idxField w) (byteField w)) ∨
     (opField w = 10#4 ∧ idxField w = 0#8 ∧ dataField w = 0#16 ∧ i = .clrerr)) := by
  rcases op_values (opField w) with ho | ho | ho | ho | ho | ho | ho | ho | ho | ho | ho | ho
  case inr.inr.inr.inr.inr.inr.inr.inr.inr.inr.inr =>
    unfold decode at h; split at h <;> first | omega | exact absurd h (by simp)
  case inr.inr.inr.inr.inr.inr.inr.inl =>
    have hs : setField w ≠ 3#2 := fun e => by simp [decode, ho, e] at h
    simp [decode, ho, hs, whenZero_ok] at h
    simp_all
  all_goals
    simp [decode, ho, whenZero_ok] at h
    simp_all
/-- A contiguous mask is a field: the bits under it are 0 exactly when the field is. -/
theorem and_mask_eq_zero (w : Word) (s n : Nat) (h : s + n ≤ 32) :
    w &&& ((BitVec.allOnes n).setWidth 32 <<< s) = 0#32 ↔ w.extractLsb' s n = 0#n := by
  constructor <;> intro e <;> apply BitVec.eq_of_getLsbD_eq <;> intro j hj
  · have hb := congrArg (·.getLsbD (s + j)) e
    simp only [BitVec.getLsbD_and, BitVec.getLsbD_shiftLeft, BitVec.getLsbD_setWidth, BitVec.getLsbD_allOnes,
      BitVec.getLsbD_zero] at hb
    simp only [BitVec.getLsbD_extractLsb', BitVec.getLsbD_zero]
    simpa [hj, show s + j < 32 by omega, show j < 32 by omega] using hb
  · have hb := congrArg (·.getLsbD (j - s)) e
    simp only [BitVec.getLsbD_extractLsb', BitVec.getLsbD_zero] at hb
    simp only [BitVec.getLsbD_and, BitVec.getLsbD_shiftLeft, BitVec.getLsbD_setWidth, BitVec.getLsbD_allOnes,
      BitVec.getLsbD_zero]
    by_cases hs : s ≤ j <;> by_cases hn : j - s < n <;> simp_all

end Sys2Proof.Machine
end

