-- ==== Sys2Proof/Laws/PerInstr.lean ====
section
/-! SUPPORT. The family of per-command laws `EncodedFields`: the word of a command carries its own OP and no RSV bit. -/

namespace Sys2Proof.Laws.EncodedFields

open Machine

/-- The value of OP that selects a command (30_encoding.md R84). -/
def opNumber : Instr → BitVec 4
  | .nop => 0x0#4
  | .build16 => 0x1#4
  | .build7 => 0x2#4
  | .set16 _ => 0x3#4
  | .set7 _ => 0x4#4
  | .upd16 _ => 0x5#4
  | .upd7 _ => 0x6#4
  | .verify _ => 0x7#4
  | .wr16 _ _ => 0x8#4
  | .wr7 _ _ => 0x9#4
  | .clrerr => 0xA#4

/-- OP of the word is the command's (R84), and "RSV ... must be 0 in every command" (R80). -/
def Statement (i : Instr) : Prop := opField (encode i) = opNumber i ∧ rsvField (encode i) = 0#4

theorem nop : Statement .nop := ⟨opField_assemble _ _ _, rsvField_assemble _ _ _⟩

theorem build16 : Statement .build16 := ⟨opField_assemble _ _ _, rsvField_assemble _ _ _⟩

theorem build7 : Statement .build7 := ⟨opField_assemble _ _ _, rsvField_assemble _ _ _⟩

theorem set16 (imm16 : Half) : Statement (.set16 imm16) := ⟨opField_assemble _ _ _, rsvField_assemble _ _ _⟩

theorem set7 (imm8 : Byte) : Statement (.set7 imm8) := ⟨opField_assemble _ _ _, rsvField_assemble _ _ _⟩

theorem upd16 (b : Byte) : Statement (.upd16 b) := ⟨opField_assemble _ _ _, rsvField_assemble _ _ _⟩

theorem upd7 (b : Byte) : Statement (.upd7 b) := ⟨opField_assemble _ _ _, rsvField_assemble _ _ _⟩

theorem verify (set : BitVec 2) : Statement (.verify set) := ⟨opField_assemble _ _ _, rsvField_assemble _ _ _⟩

theorem wr16 (idx : Byte) (imm16 : Half) : Statement (.wr16 idx imm16) :=
  ⟨opField_assemble _ _ _, rsvField_assemble _ _ _⟩

theorem wr7 (idx imm8 : Byte) : Statement (.wr7 idx imm8) := ⟨opField_assemble _ _ _, rsvField_assemble _ _ _⟩

theorem clrerr : Statement .clrerr := ⟨opField_assemble _ _ _, rsvField_assemble _ _ _⟩

end Sys2Proof.Laws.EncodedFields
end

