-- ==== Sys2Proof/Laws/Verifier.lean ====
section
/-! SUPPORT. Everything the loop of VERIFY can answer (42_verifier.md R161, R162), in the terms of Safety.lean: none exactly
when every vector the set runs passes, and else the first that does not. -/

namespace Sys2Proof.Machine

/-- A vector that is skipped or passes is passed over; any other ends the loop. -/
theorem firstMismatch_cons (set : BitVec 2) (t16 : Table16) (t7 : Table7) (k : BitVec 3) (v : KnownAnswer)
    (rest : List (BitVec 3 × KnownAnswer)) :
    firstMismatch set t16 t7 ((k, v) :: rest) =
      if v.covered set = true ∧ v.mismatch t16 t7 = true then some k else firstMismatch set t16 t7 rest := by
  simp [firstMismatch]

/-- The count beside it: a skipped vector folds nothing, a mismatch is the last one folded. -/
theorem foldedBytes_cons (set : BitVec 2) (t16 : Table16) (t7 : Table7) (k : BitVec 3) (v : KnownAnswer)
    (rest : List (BitVec 3 × KnownAnswer)) :
    foldedBytes set t16 t7 ((k, v) :: rest) =
      if v.covered set = true then
        v.length + if v.mismatch t16 t7 = true then 0 else foldedBytes set t16 t7 rest
      else foldedBytes set t16 t7 rest := rfl

theorem covers16_iff (set : BitVec 2) : covers16 set = true ↔ Covers16 set := by simp [covers16, Covers16]

theorem covers7_iff (set : BitVec 2) : covers7 set = true ↔ Covers7 set := by simp [covers7, Covers7]

/-- VROM, vector by vector: the index it stands at, when a set runs it, and what its mismatch means. -/
theorem vrom_vector (set : BitVec 2) (t16 : Table16) (t7 : Table7) (k : Fin 6) :
    ∃ v, vrom[k.val]? = some (BitVec.ofNat 3 k.val, v) ∧ (v.covered set = true ↔ Runs set k) ∧
      (v.mismatch t16 t7 = true ↔ ¬ VectorPasses t16 t7 k) := by
  have h16 : covers16 set = true ↔ Runs set 0 := by simp [covers16_iff, Runs]
  have h7 : ∀ j : Fin 6, j ≠ 0 → (covers7 set = true ↔ Runs set j) := fun j hj => by simp [covers7_iff, Runs, hj]
  fin_cases k
  · exact ⟨_, rfl, h16, bne_iff_ne⟩
  · exact ⟨_, rfl, h7 1 (by decide), bne_iff_ne⟩
  · exact ⟨_, rfl, h7 2 (by decide), bne_iff_ne⟩
  · exact ⟨_, rfl, h7 3 (by decide), bne_iff_ne⟩
  · exact ⟨_, rfl, h7 4 (by decide), bne_iff_ne⟩
  · exact ⟨_, rfl, h7 5 (by decide), bne_iff_ne⟩

/-- The loop finds no mismatch exactly when every vector it meets is skipped or passes. -/
theorem firstMismatch_eq_none {set : BitVec 2} {t16 : Table16} {t7 : Table7} (vs : List (BitVec 3 × KnownAnswer)) :
    firstMismatch set t16 t7 vs = none ↔
      ∀ (j : Nat) (kv : BitVec 3 × KnownAnswer), vs[j]? = some kv → kv.2.covered set = true → kv.2.mismatch t16 t7 = false := by
  induction vs with
  | nil => simp [firstMismatch]
  | cons kv vs ih =>
    obtain ⟨k, v⟩ := kv
    rw [firstMismatch_cons]
    constructor
    · intro h j kv hj hc
      split at h
      · exact absurd h (by simp)
      · cases j with
        | zero => simp only [List.getElem?_cons_zero, Option.some.injEq] at hj; subst hj; simp_all
        | succ j => exact ih.mp h j kv (by simpa using hj) hc
    · intro h
      have h0 := h 0 (k, v) rfl
      rw [if_neg (by simp_all)]
      exact ih.mpr fun j kv hj => h (j + 1) kv (by simpa using hj)

/-- The loop ends at the first vector that is run and fails. -/
theorem firstMismatch_eq_some {set : BitVec 2} {t16 : Table16} {t7 : Table7} {vs : List (BitVec 3 × KnownAnswer)} {n : Nat}
    {k : BitVec 3} {v : KnownAnswer} (hn : vs[n]? = some (k, v)) (hc : v.covered set = true)
    (hm : v.mismatch t16 t7 = true)
    (hj : ∀ (j : Nat) (kv : BitVec 3 × KnownAnswer), j < n → vs[j]? = some kv → kv.2.covered set = true → kv.2.mismatch t16 t7 = false) :
    firstMismatch set t16 t7 vs = some k := by
  induction vs generalizing n with
  | nil => simp at hn
  | cons kv vs ih =>
    obtain ⟨k', v'⟩ := kv
    rw [firstMismatch_cons]
    cases n with
    | zero =>
      simp only [List.getElem?_cons_zero, Option.some.injEq, Prod.mk.injEq] at hn
      obtain ⟨rfl, rfl⟩ := hn
      rw [if_pos ⟨hc, hm⟩]
    | succ n =>
      have h0 := hj 0 (k', v') (by omega) rfl
      rw [if_neg (by simp_all)]
      exact ih (by simpa using hn) fun j kv hlt h => hj (j + 1) kv (by omega) (by simpa using h)

/-- VROM gives no mismatch exactly when every vector the set runs passes. -/
theorem vrom_none (set : BitVec 2) (t16 : Table16) (t7 : Table7) :
    firstMismatch set t16 t7 vrom = none ↔ ∀ k, Runs set k → VectorPasses t16 t7 k := by
  rw [firstMismatch_eq_none]
  constructor
  · intro h k hk
    obtain ⟨v, hv, hc, hm⟩ := vrom_vector set t16 t7 k
    by_contra hp
    exact absurd (h k.val _ hv (hc.mpr hk)) (by simp [hm.mpr hp])
  · intro h j kv hj hcov
    have hlt : j < 6 := (List.getElem?_eq_some_iff.mp hj).1
    obtain ⟨v, hv, hc, hm⟩ := vrom_vector set t16 t7 ⟨j, hlt⟩
    rw [hj, Option.some.injEq] at hv
    subst hv
    have := h ⟨j, hlt⟩ (hc.mp hcov)
    simpa using fun e => hm.mp e this

/-- VROM gives the first vector that the set runs and that fails. -/
theorem vrom_some {set : BitVec 2} {t16 : Table16} {t7 : Table7} {k : Fin 6} (hk : Runs set k)
    (hp : ¬ VectorPasses t16 t7 k) (hj : ∀ j, j < k → Runs set j → VectorPasses t16 t7 j) :
    firstMismatch set t16 t7 vrom = some (BitVec.ofNat 3 k.val) := by
  obtain ⟨v, hv, hc, hm⟩ := vrom_vector set t16 t7 k
  refine firstMismatch_eq_some hv (hc.mpr hk) (hm.mpr hp) fun j kv hlt h hcov => ?_
  obtain ⟨v', hv', hc', hm'⟩ := vrom_vector set t16 t7 ⟨j, by omega⟩
  rw [h, Option.some.injEq] at hv'
  subst hv'
  have := hj ⟨j, by omega⟩ (by simpa [Fin.lt_def] using hlt) (hc'.mp hcov)
  simpa using fun e => hm'.mp e this

/-- Whatever VROM answers is the first vector that the set runs and that fails. -/
theorem vrom_first {set : BitVec 2} {t16 : Table16} {t7 : Table7} {i : BitVec 3}
    (h : firstMismatch set t16 t7 vrom = some i) :
    ∃ k : Fin 6, i = BitVec.ofNat 3 k.val ∧ Runs set k ∧ ¬ VectorPasses t16 t7 k ∧
      ∀ j, j < k → Runs set j → VectorPasses t16 t7 j := by
  have hne : {k : Fin 6 | Runs set k ∧ ¬ VectorPasses t16 t7 k}.Nonempty := by
    by_contra he
    have hn : firstMismatch set t16 t7 vrom = none :=
      (vrom_none _ _ _).2 fun k hk => by_contra fun hp => he ⟨k, hk, hp⟩
    simp [hn] at h
  obtain ⟨k, ⟨hk, hp⟩, hmin⟩ := WellFounded.has_min (wellFounded_lt (α := Fin 6)) _ hne
  have hj : ∀ j, j < k → Runs set j → VectorPasses t16 t7 j := fun j hlt hr => by_contra fun hq => hmin j ⟨hr, hq⟩ hlt
  exact ⟨k, Option.some.inj (h.symm.trans (vrom_some hk hp hj)), hk, hp, hj⟩

/-- The index the loop answers is 0 to 5. -/
theorem vrom_index {set : BitVec 2} {t16 : Table16} {t7 : Table7} {k : BitVec 3}
    (h : firstMismatch set t16 t7 vrom = some k) : k.toNat ≤ 5 := by
  obtain ⟨j, rfl, -⟩ := vrom_first h
  simp only [BitVec.toNat_ofNat]
  omega

end Sys2Proof.Machine
end

