-- ==== Sys2Proof/Tests/Slice0.lean ====
section
/-! SUPPORT. Tests on one step each, and witnesses for the hypotheses of the statements. Every expected value is transcribed
from 95_test_vectors.md (its section number stands in each docstring) or from the encodings of 30_encoding.md R88. -/

namespace Sys2Proof.Tests

open Machine

/- One test after another: each theorem that waits for the kernel holds a thread's stack, and dozens of them at once take
more memory than the check allows. -/
set_option Elab.async false

/-! ## The tables of 95_test_vectors.md section 2 -/

/-- 95_test_vectors.md 2.1, entries 0x00 to 0x3F. -/
def spec16Part0 : List Half := [
  0x0000#16, 0x1021#16, 0x2042#16, 0x3063#16, 0x4084#16, 0x50A5#16, 0x60C6#16, 0x70E7#16,
  0x8108#16, 0x9129#16, 0xA14A#16, 0xB16B#16, 0xC18C#16, 0xD1AD#16, 0xE1CE#16, 0xF1EF#16,
  0x1231#16, 0x0210#16, 0x3273#16, 0x2252#16, 0x52B5#16, 0x4294#16, 0x72F7#16, 0x62D6#16,
  0x9339#16, 0x8318#16, 0xB37B#16, 0xA35A#16, 0xD3BD#16, 0xC39C#16, 0xF3FF#16, 0xE3DE#16,
  0x2462#16, 0x3443#16, 0x0420#16, 0x1401#16, 0x64E6#16, 0x74C7#16, 0x44A4#16, 0x5485#16,
  0xA56A#16, 0xB54B#16, 0x8528#16, 0x9509#16, 0xE5EE#16, 0xF5CF#16, 0xC5AC#16, 0xD58D#16,
  0x3653#16, 0x2672#16, 0x1611#16, 0x0630#16, 0x76D7#16, 0x66F6#16, 0x5695#16, 0x46B4#16,
  0xB75B#16, 0xA77A#16, 0x9719#16, 0x8738#16, 0xF7DF#16, 0xE7FE#16, 0xD79D#16, 0xC7BC#16]

/-- 95_test_vectors.md 2.1, entries 0x40 to 0x7F. -/
def spec16Part1 : List Half := [
  0x48C4#16, 0x58E5#16, 0x6886#16, 0x78A7#16, 0x0840#16, 0x1861#16, 0x2802#16, 0x3823#16,
  0xC9CC#16, 0xD9ED#16, 0xE98E#16, 0xF9AF#16, 0x8948#16, 0x9969#16, 0xA90A#16, 0xB92B#16,
  0x5AF5#16, 0x4AD4#16, 0x7AB7#16, 0x6A96#16, 0x1A71#16, 0x0A50#16, 0x3A33#16, 0x2A12#16,
  0xDBFD#16, 0xCBDC#16, 0xFBBF#16, 0xEB9E#16, 0x9B79#16, 0x8B58#16, 0xBB3B#16, 0xAB1A#16,
  0x6CA6#16, 0x7C87#16, 0x4CE4#16, 0x5CC5#16, 0x2C22#16, 0x3C03#16, 0x0C60#16, 0x1C41#16,
  0xEDAE#16, 0xFD8F#16, 0xCDEC#16, 0xDDCD#16, 0xAD2A#16, 0xBD0B#16, 0x8D68#16, 0x9D49#16,
  0x7E97#16, 0x6EB6#16, 0x5ED5#16, 0x4EF4#16, 0x3E13#16, 0x2E32#16, 0x1E51#16, 0x0E70#16,
  0xFF9F#16, 0xEFBE#16, 0xDFDD#16, 0xCFFC#16, 0xBF1B#16, 0xAF3A#16, 0x9F59#16, 0x8F78#16]

/-- 95_test_vectors.md 2.1, entries 0x80 to 0xBF. -/
def spec16Part2 : List Half := [
  0x9188#16, 0x81A9#16, 0xB1CA#16, 0xA1EB#16, 0xD10C#16, 0xC12D#16, 0xF14E#16, 0xE16F#16,
  0x1080#16, 0x00A1#16, 0x30C2#16, 0x20E3#16, 0x5004#16, 0x4025#16, 0x7046#16, 0x6067#16,
  0x83B9#16, 0x9398#16, 0xA3FB#16, 0xB3DA#16, 0xC33D#16, 0xD31C#16, 0xE37F#16, 0xF35E#16,
  0x02B1#16, 0x1290#16, 0x22F3#16, 0x32D2#16, 0x4235#16, 0x5214#16, 0x6277#16, 0x7256#16,
  0xB5EA#16, 0xA5CB#16, 0x95A8#16, 0x8589#16, 0xF56E#16, 0xE54F#16, 0xD52C#16, 0xC50D#16,
  0x34E2#16, 0x24C3#16, 0x14A0#16, 0x0481#16, 0x7466#16, 0x6447#16, 0x5424#16, 0x4405#16,
  0xA7DB#16, 0xB7FA#16, 0x8799#16, 0x97B8#16, 0xE75F#16, 0xF77E#16, 0xC71D#16, 0xD73C#16,
  0x26D3#16, 0x36F2#16, 0x0691#16, 0x16B0#16, 0x6657#16, 0x7676#16, 0x4615#16, 0x5634#16]

/-- 95_test_vectors.md 2.1, entries 0xC0 to 0xFF. -/
def spec16Part3 : List Half := [
  0xD94C#16, 0xC96D#16, 0xF90E#16, 0xE92F#16, 0x99C8#16, 0x89E9#16, 0xB98A#16, 0xA9AB#16,
  0x5844#16, 0x4865#16, 0x7806#16, 0x6827#16, 0x18C0#16, 0x08E1#16, 0x3882#16, 0x28A3#16,
  0xCB7D#16, 0xDB5C#16, 0xEB3F#16, 0xFB1E#16, 0x8BF9#16, 0x9BD8#16, 0xABBB#16, 0xBB9A#16,
  0x4A75#16, 0x5A54#16, 0x6A37#16, 0x7A16#16, 0x0AF1#16, 0x1AD0#16, 0x2AB3#16, 0x3A92#16,
  0xFD2E#16, 0xED0F#16, 0xDD6C#16, 0xCD4D#16, 0xBDAA#16, 0xAD8B#16, 0x9DE8#16, 0x8DC9#16,
  0x7C26#16, 0x6C07#16, 0x5C64#16, 0x4C45#16, 0x3CA2#16, 0x2C83#16, 0x1CE0#16, 0x0CC1#16,
  0xEF1F#16, 0xFF3E#16, 0xCF5D#16, 0xDF7C#16, 0xAF9B#16, 0xBFBA#16, 0x8FD9#16, 0x9FF8#16,
  0x6E17#16, 0x7E36#16, 0x4E55#16, 0x5E74#16, 0x2E93#16, 0x3EB2#16, 0x0ED1#16, 0x1EF0#16]

/-- 95_test_vectors.md 2.2, entries 0x00 to 0x3F. -/
def spec7Part0 : List Byte := [
  0x00#8, 0x09#8, 0x12#8, 0x1B#8, 0x24#8, 0x2D#8, 0x36#8, 0x3F#8,
  0x48#8, 0x41#8, 0x5A#8, 0x53#8, 0x6C#8, 0x65#8, 0x7E#8, 0x77#8,
  0x19#8, 0x10#8, 0x0B#8, 0x02#8, 0x3D#8, 0x34#8, 0x2F#8, 0x26#8,
  0x51#8, 0x58#8, 0x43#8, 0x4A#8, 0x75#8, 0x7C#8, 0x67#8, 0x6E#8,
  0x32#8, 0x3B#8, 0x20#8, 0x29#8, 0x16#8, 0x1F#8, 0x04#8, 0x0D#8,
  0x7A#8, 0x73#8, 0x68#8, 0x61#8, 0x5E#8, 0x57#8, 0x4C#8, 0x45#8,
  0x2B#8, 0x22#8, 0x39#8, 0x30#8, 0x0F#8, 0x06#8, 0x1D#8, 0x14#8,
  0x63#8, 0x6A#8, 0x71#8, 0x78#8, 0x47#8, 0x4E#8, 0x55#8, 0x5C#8]

/-- 95_test_vectors.md 2.2, entries 0x40 to 0x7F. -/
def spec7Part1 : List Byte := [
  0x64#8, 0x6D#8, 0x76#8, 0x7F#8, 0x40#8, 0x49#8, 0x52#8, 0x5B#8,
  0x2C#8, 0x25#8, 0x3E#8, 0x37#8, 0x08#8, 0x01#8, 0x1A#8, 0x13#8,
  0x7D#8, 0x74#8, 0x6F#8, 0x66#8, 0x59#8, 0x50#8, 0x4B#8, 0x42#8,
  0x35#8, 0x3C#8, 0x27#8, 0x2E#8, 0x11#8, 0x18#8, 0x03#8, 0x0A#8,
  0x56#8, 0x5F#8, 0x44#8, 0x4D#8, 0x72#8, 0x7B#8, 0x60#8, 0x69#8,
  0x1E#8, 0x17#8, 0x0C#8, 0x05#8, 0x3A#8, 0x33#8, 0x28#8, 0x21#8,
  0x4F#8, 0x46#8, 0x5D#8, 0x54#8, 0x6B#8, 0x62#8, 0x79#8, 0x70#8,
  0x07#8, 0x0E#8, 0x15#8, 0x1C#8, 0x23#8, 0x2A#8, 0x31#8, 0x38#8]

/-- 95_test_vectors.md 2.2, entries 0x80 to 0xBF. -/
def spec7Part2 : List Byte := [
  0x41#8, 0x48#8, 0x53#8, 0x5A#8, 0x65#8, 0x6C#8, 0x77#8, 0x7E#8,
  0x09#8, 0x00#8, 0x1B#8, 0x12#8, 0x2D#8, 0x24#8, 0x3F#8, 0x36#8,
  0x58#8, 0x51#8, 0x4A#8, 0x43#8, 0x7C#8, 0x75#8, 0x6E#8, 0x67#8,
  0x10#8, 0x19#8, 0x02#8, 0x0B#8, 0x34#8, 0x3D#8, 0x26#8, 0x2F#8,
  0x73#8, 0x7A#8, 0x61#8, 0x68#8, 0x57#8, 0x5E#8, 0x45#8, 0x4C#8,
  0x3B#8, 0x32#8, 0x29#8, 0x20#8, 0x1F#8, 0x16#8, 0x0D#8, 0x04#8,
  0x6A#8, 0x63#8, 0x78#8, 0x71#8, 0x4E#8, 0x47#8, 0x5C#8, 0x55#8,
  0x22#8, 0x2B#8, 0x30#8, 0x39#8, 0x06#8, 0x0F#8, 0x14#8, 0x1D#8]

/-- 95_test_vectors.md 2.2, entries 0xC0 to 0xFF. -/
def spec7Part3 : List Byte := [
  0x25#8, 0x2C#8, 0x37#8, 0x3E#8, 0x01#8, 0x08#8, 0x13#8, 0x1A#8,
  0x6D#8, 0x64#8, 0x7F#8, 0x76#8, 0x49#8, 0x40#8, 0x5B#8, 0x52#8,
  0x3C#8, 0x35#8, 0x2E#8, 0x27#8, 0x18#8, 0x11#8, 0x0A#8, 0x03#8,
  0x74#8, 0x7D#8, 0x66#8, 0x6F#8, 0x50#8, 0x59#8, 0x42#8, 0x4B#8,
  0x17#8, 0x1E#8, 0x05#8, 0x0C#8, 0x33#8, 0x3A#8, 0x21#8, 0x28#8,
  0x5F#8, 0x56#8, 0x4D#8, 0x44#8, 0x7B#8, 0x72#8, 0x69#8, 0x60#8,
  0x0E#8, 0x07#8, 0x1C#8, 0x15#8, 0x2A#8, 0x23#8, 0x38#8, 0x31#8,
  0x46#8, 0x4F#8, 0x54#8, 0x5D#8, 0x62#8, 0x6B#8, 0x70#8, 0x79#8]

/-- TBL16 as section 2.1 lists it. -/
def spec16 : Table16 := ⟨⟨spec16Part0 ++ spec16Part1 ++ spec16Part2 ++ spec16Part3⟩, by decide +kernel⟩

/-- TBL7 as section 2.2 lists it. -/
def spec7 : Table7 := ⟨⟨spec7Part0 ++ spec7Part1 ++ spec7Part2 ++ spec7Part3⟩, by decide +kernel⟩

/-! ## Helpers -/

/-- The write of a command word to CMD. -/
def cmd (w : Word) : Input := .host (.wr32 0x000#12 w)

/-- The state after one step on one operation. -/
def after (s : State) (op : Input) : Option State :=
  match step { s with pending := [op] } with
  | .next t => some t
  | .fault _ => none
  | .refused _ => none

/-- STATUS after one step, as a host reads it. -/
def statusAfter (s : State) (op : Input) : Option Word := (after s op).map (·.status.word)

/-- The value one read returns, and STATUS after it. -/
def answer (s : State) (a : Access) : Option (List ReadValue × Word) :=
  (after s (.host a)).map fun t => (t.reads, t.status.word)

/-- After `BUILD16 ; BUILD7`: the tables are those of section 2 (`test_built16_table`, `test_built7_table`). -/
def built : State := { State.reset with tbl16 := spec16, tbl7 := spec7 }

/-- After `INIT` (STATUS = 0x003). -/
def opened : State := { built with status := { Status.reset with v16 := true, v7 := true } }

/-- `built` with one TBL16 entry replaced. -/
def with16 (i : Byte) (v : Half) : State := { built with tbl16 := Table16.write spec16 i v }

/-- `built` with one TBL7 entry replaced. -/
def with7 (i v : Byte) : State := { built with tbl7 := Table7.write spec7 i v }

/-- Reset with every error bit and VFAIL set (STATUS = 0x704). -/
def failed : State := { State.reset with status := { Status.reset with vfail := true, ill := true, gate := true, berr := true } }

/-! ## Well-formedness, decoding, encoding -/

/-- R85: the one ill-formed term, VERIFY with set 3, is refused; the legal sets are not. -/
theorem test_wellFormed_refuses_verify_set3 :
    ¬ Instr.WellFormed (.verify 3#2) ∧ Instr.WellFormed (.verify 0#2) ∧ Instr.WellFormed (.verify 1#2) ∧
      Instr.WellFormed (.verify 2#2) := by decide

/-- R88's words and the tables of 95_test_vectors.md section 3: NOP, BUILD16, BUILD7, CLRERR. -/
theorem test_decode_plain :
    decode 0x00000000#32 = .ok .nop ∧ decode 0x10000000#32 = .ok .build16 ∧ decode 0x20000000#32 = .ok .build7 ∧
      decode 0xA0000000#32 = .ok .clrerr := by decide

/-- Sections 3.2 and 4: SET16 0xBEEF, SET7 0x00, UPD16 0xFF, UPD7 0x77. -/
theorem test_decode_codec :
    decode 0x3000BEEF#32 = .ok (.set16 0xBEEF#16) ∧ decode 0x40000000#32 = .ok (.set7 0x00#8) ∧
      decode 0x500000FF#32 = .ok (.upd16 0xFF#8) ∧ decode 0x60000077#32 = .ok (.upd7 0x77#8) := by decide

/-- Section 3.3: VERIFY ALL, 16 and 7. -/
theorem test_decode_verify :
    decode 0x70000000#32 = .ok (.verify 0#2) ∧ decode 0x70000001#32 = .ok (.verify 1#2) ∧
      decode 0x70000002#32 = .ok (.verify 2#2) := by decide

/-- Section 3.1: WR16 0xFF, 0x1EF1 and WR7 0x40, 0xFF. -/
theorem test_decode_writes :
    decode 0x80FF1EF1#32 = .ok (.wr16 0xFF#8 0x1EF1#16) ∧ decode 0x904000FF#32 = .ok (.wr7 0x40#8 0xFF#8) := by decide

/-- Sections 3.1, 3.3 and 3.5: the illegal words, each refused under the name of its cause. -/
theorem test_decode_refuses :
    decode 0x00000001#32 = .error .mustBeZero ∧ decode 0x01000000#32 = .error .mustBeZero ∧
      decode 0x0F000000#32 = .error .mustBeZero ∧ decode 0x10000001#32 = .error .mustBeZero ∧
      decode 0x30010000#32 = .error .mustBeZero ∧ decode 0x40000100#32 = .error .mustBeZero ∧
      decode 0x50000100#32 = .error .mustBeZero ∧ decode 0x70000003#32 = .error .verifySet ∧
      decode 0x70000004#32 = .error .mustBeZero ∧ decode 0x90000100#32 = .error .mustBeZero ∧
      decode 0x900001FF#32 = .error .mustBeZero ∧ decode 0xA0000001#32 = .error .mustBeZero ∧
      decode 0xB0000000#32 = .error .reservedOp ∧ decode 0xF0000000#32 = .error .reservedOp := by decide

/-- R88: the words of the script, from the commands. -/
theorem test_encode_words :
    encode (.set16 0x1234#16) = 0x30001234#32 ∧ encode (.upd7 0x40#8) = 0x60000040#32 ∧
      encode (.verify 2#2) = 0x70000002#32 ∧ encode (.wr16 0xFF#8 0x1EF1#16) = 0x80FF1EF1#32 ∧
      encode (.wr7 0x40#8 0xFF#8) = 0x904000FF#32 ∧ encode .clrerr = 0xA0000000#32 := by decide

/-- A table word is the command word itself. -/
theorem test_decodeTableWord :
    decodeTableWord 32 0x80FF1EF1 = some (.wr16 0xFF#8 0x1EF1#16) ∧ decodeTableWord 32 0x10000000 = some .build16 ∧
      decodeTableWord 32 0xB0000000 = none := by decide

/-- `withFetchWord` hands exactly that word to the next step. -/
theorem test_withFetchWord_runs (w : Nat) :
    step (State.reset.withFetchWord 32 w) = runCommand (tableWord 32 w) State.reset := rfl

/-! ## The built tables -/

/-- Section 2.1, all 256 entries. -/
theorem test_built16_table : built16 = spec16 := by
  apply Vector.toList_inj.mp
  unfold built16
  rw [Vector.toList_ofFn]
  decide +kernel

/-- Section 2.2, all 256 entries. -/
theorem test_built7_table : built7 = spec7 := by
  apply Vector.toList_inj.mp
  unfold built7
  rw [Vector.toList_ofFn]
  decide +kernel

/-! ## Table builder (section 3.1) -/

/-- The register after each round, BUILD16 of 0x80 and 0xFF; the 16-round form from 0x0080. -/
theorem test_build16_rounds :
    (List.range 8).map (fun n => Nat.iterate round16 (n + 1) 0x8000#16) =
        [0x1021#16, 0x2042#16, 0x4084#16, 0x8108#16, 0x1231#16, 0x2462#16, 0x48C4#16, 0x9188#16] ∧
      (List.range 8).map (fun n => Nat.iterate round16 (n + 1) 0xFF00#16) =
        [0xEE21#16, 0xCC63#16, 0x88E7#16, 0x01EF#16, 0x03DE#16, 0x07BC#16, 0x0F78#16, 0x1EF0#16] ∧
      Nat.iterate round16 16 0x0080#16 = 0x9188#16 := by decide +kernel

/-- BUILD16 from reset and after INIT. -/
theorem test_build16 :
    statusAfter State.reset (cmd 0x10000000#32) = some 0x000#32 ∧ statusAfter opened (cmd 0x10000000#32) = some 0x002#32 :=
  ⟨by decide +kernel, by decide +kernel⟩

/-- The register after each round, BUILD7 of 0x80 and 0xFF. -/
theorem test_build7_rounds :
    (List.range 7).map (fun n => Nat.iterate round7 (n + 1) (reduce7 0x80#8)) =
        [0x12#8, 0x24#8, 0x48#8, 0x19#8, 0x32#8, 0x64#8, 0x41#8] ∧
      (List.range 7).map (fun n => Nat.iterate round7 (n + 1) (reduce7 0xFF#8)) =
        [0x65#8, 0x43#8, 0x0F#8, 0x1E#8, 0x3C#8, 0x78#8, 0x79#8] := by decide +kernel

/-- BUILD7 after INIT. -/
theorem test_build7 :
    statusAfter opened (cmd 0x20000000#32) = some 0x001#32 := by decide +kernel

/-- WR16 after INIT: the same value still closes the gate. -/
theorem test_wr16 :
    statusAfter opened (cmd 0x80000000#32) = some 0x002#32 ∧
      (after opened (cmd 0x80000000#32)).map (Table16.read ·.tbl16 0x00#8) = some 0x0000#16 ∧
      statusAfter opened (cmd 0x80FF1EF1#32) = some 0x002#32 ∧
      (after opened (cmd 0x80FF1EF1#32)).map (fun t => (Table16.read t.tbl16 0xFF#8, Table16.read t.tbl16 0xFE#8)) =
        some (0x1EF1#16, 0x0ED1#16) := by decide +kernel

/-- WR7 after INIT, and its illegal form from reset. -/
theorem test_wr7 :
    statusAfter opened (cmd 0x904000FF#32) = some 0x001#32 ∧
      (after opened (cmd 0x904000FF#32)).map (fun t => (Table7.read t.tbl7 0x40#8, Table7.read t.tbl7 0x41#8)) =
        some (0xFF#8, 0x6D#8) ∧
      (after State.reset (cmd 0x900001FF#32)).map (fun t => (t.status.word, Table7.read t.tbl7 0x00#8)) =
        some (0x100#32, 0x00#8) := by decide +kernel

/-! ## Reference codec (section 3.2) -/

/-- SET16 0xBEEF and SET7 0x80: all bits are held. -/
theorem test_set :
    (after built (cmd 0x3000BEEF#32)).map (·.acc16) = some 0xBEEF#16 ∧
      (after built (cmd 0x40000080#32)).map (·.acc7) = some 0x80#8 := by decide +kernel

/-- UPD16: ACC16 before, the word, ACC16 after, with the built table. -/
theorem test_upd16 :
    [(0x0000#16, 0x50000000#32, 0x0000#16), (0x0000#16, 0x500000FF#32, 0x1EF0#16), (0xFFFF#16, 0x500000FF#32, 0xFF00#16),
      (0xFFFF#16, 0x50000000#32, 0xE1F0#16), (0x00FF#16, 0x500000FF#32, 0xE1F0#16), (0x1234#16, 0x50000056#32, 0x3C40#16),
      (0x8000#16, 0x50000000#32, 0x9188#16), (0x7FA1#16, 0x50000000#32, 0x2E78#16)].all (fun r =>
        (after { built with acc16 := r.1 } (cmd r.2.1)).map (·.acc16) == some r.2.2) = true := by decide +kernel

/-- UPD16 with the reset (zero) table. -/
theorem test_upd16_zero_table :
    (after { State.reset with acc16 := 0x1234#16 } (cmd 0x50000056#32)).map (·.acc16) = some 0x3400#16 := by
  decide +kernel

/-- UPD7: ACC7 before, the word, ACC7 after and DIG7 after, with the built table. -/
theorem test_upd7 :
    [(0x00#8, 0x60000000#32, 0x00#8, 0x01#8), (0x00#8, 0x60000040#32, 0x64#8, 0xC9#8), (0x00#8, 0x600000FF#32, 0x79#8, 0xF3#8),
      (0x7F#8, 0x60000000#32, 0x70#8, 0xE1#8), (0x7F#8, 0x600000FF#32, 0x09#8, 0x13#8), (0x80#8, 0x60000000#32, 0x00#8, 0x01#8),
      (0x80#8, 0x60000012#32, 0x0B#8, 0x17#8), (0xFF#8, 0x60000001#32, 0x79#8, 0xF3#8),
      (0x4A#8, 0x60000000#32, 0x7C#8, 0xF9#8)].all (fun r =>
        (after { built with acc7 := r.1 } (cmd r.2.1)).map (fun t => (t.acc7, fin7 t.acc7)) == some r.2.2) = true := by
  decide +kernel

/-- DIG7 reads `fin7`, and leaves ACC7. -/
theorem test_dig7 :
    [(0x00#8, 0x01#32), (0x4A#8, 0x95#32), (0x7F#8, 0xFF#32), (0x80#8, 0x01#32), (0xFF#8, 0xFF#32)].all (fun r =>
      answer { State.reset with acc7 := r.1 } (.rd32 0x014#12) == some ([.word r.2], 0x000#32)) = true := by decide +kernel

/-- Section 1: the accumulator after each byte, the first 16 bytes of vector 0 and vectors 1 and 2. -/
theorem test_accumulator_traces :
    (List.range 16).map (fun n => (List.replicate (n + 1) 0xFF#8).foldl (upd16 spec16) 0#16) =
        [0x1EF0#16, 0x1D0F#16, 0xD26C#16, 0x99CF#16, 0xC360#16, 0x97DF#16, 0x32AE#16, 0xA6E1#16, 0x2ADC#16, 0x47D8#16,
          0xFED3#16, 0xC321#16, 0xD6DF#16, 0x6A4B#16, 0x981C#16, 0x0041#16] ∧
      (List.range 5).map (fun n => ([0x40#8, 0x00#8, 0x00#8, 0x00#8, 0x00#8].take (n + 1)).foldl (upd7 spec7) 0#8) =
        [0x64#8, 0x6D#8, 0x66#8, 0x49#8, 0x4A#8] ∧
      (List.range 5).map (fun n => ([0x48#8, 0x00#8, 0x00#8, 0x01#8, 0xAA#8].take (n + 1)).foldl (upd7 spec7) 0#8) =
        [0x2C#8, 0x35#8, 0x0C#8, 0x58#8, 0x43#8] := by decide +kernel

/-- Section 3.6 and the empty message: digests of ASCII "123456789" and of no byte. -/
theorem test_digests :
    digest16 spec16 [0x31#8, 0x32#8, 0x33#8, 0x34#8, 0x35#8, 0x36#8, 0x37#8, 0x38#8, 0x39#8] = 0x31C3#16 ∧
      digest7 spec7 [0x31#8, 0x32#8, 0x33#8, 0x34#8, 0x35#8, 0x36#8, 0x37#8, 0x38#8, 0x39#8] = 0xEB#8 ∧
      digest16 spec16 [] = 0x0000#16 ∧ digest7 spec7 [] = 0x01#8 := by decide +kernel

/-! ## Verifier (section 3.3) -/

/-- UPD16 of 0xFF, 64 times, on the built table with the entry at 0xFF replaced by `v`. -/
def fold64 (v : Half) : Half → Half := (fun c =>
  (if (c >>> 8).setWidth 8 ^^^ 0xFF#8 = 0xFF#8 then v else entry16 ((c >>> 8).setWidth 8 ^^^ 0xFF#8)) ^^^ (c <<< 8))^[64]

/-- Vector 0's digest as eight such folds. -/
theorem digest_vector0 (v : Half) :
    digest16 (Table16.write built16 0xFF#8 v) (List.replicate 512 0xFF#8) = (fold64 v)^[8] 0x0000#16 := by
  rw [digest16_replicate, show 512 = 64 * 8 from rfl, Function.iterate_mul]
  congr 2
  funext c
  unfold upd16
  split
  · rename_i h; rw [h, Table16.read_write_same]
  · rename_i h; rw [Table16.read_write_other _ _ h, Table16.read_built16]

/-- Section 1, vector 0 with the built table: 0x1AC7 after byte 256, 0x7FA1 after byte 512. -/
theorem test_vector0 : Passes16 built16 := by
  have hw : Table16.write built16 0xFF#8 0x1EF0#16 = built16 := Table16.ext_read fun i => by
    by_cases h : i = 0xFF#8
    · subst h; rw [Table16.read_write_same, Table16.read_built16]; decide +kernel
    · exact Table16.read_write_other _ _ h
  have h4 : (fold64 0x1EF0#16)^[4] 0x0000#16 = 0x1AC7#16 := by
    have h1 : fold64 0x1EF0#16 0x0000#16 = 0x278E#16 := by decide +kernel
    have h2 : fold64 0x1EF0#16 0x278E#16 = 0xEDA9#16 := by decide +kernel
    have h3 : fold64 0x1EF0#16 0xEDA9#16 = 0x9131#16 := by decide +kernel
    have h4 : fold64 0x1EF0#16 0x9131#16 = 0x1AC7#16 := by decide +kernel
    simp only [Function.iterate_succ_apply, Function.iterate_zero_apply, h1, h2, h3, h4]
  have h8 : (fold64 0x1EF0#16)^[4] 0x1AC7#16 = 0x7FA1#16 := by
    have h1 : fold64 0x1EF0#16 0x1AC7#16 = 0x8689#16 := by decide +kernel
    have h2 : fold64 0x1EF0#16 0x8689#16 = 0x955C#16 := by decide +kernel
    have h3 : fold64 0x1EF0#16 0x955C#16 = 0x7046#16 := by decide +kernel
    have h4 : fold64 0x1EF0#16 0x7046#16 = 0x7FA1#16 := by decide +kernel
    simp only [Function.iterate_succ_apply, Function.iterate_zero_apply, h1, h2, h3, h4]
  unfold Passes16
  rw [← hw, digest_vector0, show 8 = 4 + 4 from rfl, Function.iterate_add_apply, h4, h8]

/-- Section 1, vectors 1 to 5 with the built table. -/
theorem test_vectors_1_to_5 : Passes7 built7 := by
  rw [test_built7_table]
  intro j
  fin_cases j <;> (unfold Vector7Passes; decide +kernel)

/-- WR16 0xFF, 0x1EF1: vector 0 no longer passes. -/
theorem test_vector0_changed : ¬ Passes16 (Table16.write built16 0xFF#8 0x1EF1#16) := by
  have h1 : fold64 0x1EF1#16 0x0000#16 = 0x2712#16 := by decide +kernel
  have h2 : fold64 0x1EF1#16 0x2712#16 = 0xDA65#16 := by decide +kernel
  have h3 : fold64 0x1EF1#16 0xDA65#16 = 0xF7E7#16 := by decide +kernel
  have h4 : fold64 0x1EF1#16 0xF7E7#16 = 0xD303#16 := by decide +kernel
  have h5 : fold64 0x1EF1#16 0xD303#16 = 0x33AD#16 := by decide +kernel
  have h6 : fold64 0x1EF1#16 0x33AD#16 = 0xFBC9#16 := by decide +kernel
  have h7 : fold64 0x1EF1#16 0xFBC9#16 = 0xA054#16 := by decide +kernel
  have h8 : fold64 0x1EF1#16 0xA054#16 = 0x2548#16 := by decide +kernel
  unfold Passes16
  rw [digest_vector0]
  simp only [Function.iterate_succ_apply, Function.iterate_zero_apply, h1, h2, h3, h4, h5, h6, h7, h8]
  decide

theorem built_passes (k : Fin 6) : VectorPasses built.tbl16 built.tbl7 k := by
  show VectorPasses spec16 spec7 k
  rw [← test_built16_table, ← test_built7_table]
  refine Fin.cases ?_ (fun j => ?_) k
  · exact test_vector0
  · exact test_vectors_1_to_5 j

theorem with16_fails : ¬ Passes16 (with16 0xFF#8 0x1EF1#16).tbl16 := by
  show ¬ Passes16 (Table16.write spec16 0xFF#8 0x1EF1#16)
  rw [← test_built16_table]
  exact test_vector0_changed

theorem statusAfter_verify_all (s : State) :
    statusAfter s (cmd 0x70000000#32) = some (verifiedStatus 0#2 s.tbl16 s.tbl7 s.status).word := by
  simp [statusAfter, after, cmd, step, serve, perform, write32, locate, runCommand, test_decode_verify, exec_verify]

/-- VERIFY ALL passes on built tables (0x003) and fails at vector 0 on the changed one (0x004). -/
theorem test_verify_all :
    statusAfter built (cmd 0x70000000#32) = some 0x003#32 ∧
      statusAfter (with16 0xFF#8 0x1EF1#16) (cmd 0x70000000#32) = some 0x004#32 := by
  constructor
  · rw [statusAfter_verify_all, verifiedStatus, (vrom_none _ _ _).2 fun k _ => built_passes k]; rfl
  · rw [statusAfter_verify_all, verifiedStatus, vrom_some (k := 0) (.inl ⟨rfl, .inl rfl⟩) with16_fails fun j hj =>
      absurd hj (Fin.not_lt_zero j)]
    rfl

/-- VERIFY 7 fails at vector 1 on a zero table and does not reach TBL7[0x01]; the illegal words change nothing but ILL. -/
theorem test_verify :
    [(State.reset, 0x70000002#32, 0x014#32), (built, 0x70000002#32, 0x002#32), (with7 0x01#8 0x08#8, 0x70000002#32, 0x002#32),
      (opened, 0x70000003#32, 0x103#32), (opened, 0x70000004#32, 0x103#32)].all (fun r =>
      statusAfter r.1 (cmd r.2.1) == some r.2.2) = true := by decide +kernel

/-! ## Emission (section 3.4) -/

/-- Window bytes after INIT, in both target orders. -/
theorem test_window_bytes :
    [(0x400#12, 0x00#8), (0x401#12, 0x00#8), (0x402#12, 0x10#8), (0x403#12, 0x21#8), (0x500#12, 0x91#8), (0x501#12, 0x88#8),
      (0x5FE#12, 0x1E#8), (0x5FF#12, 0xF0#8), (0x600#12, 0x00#8), (0x680#12, 0x41#8), (0x6FF#12, 0x79#8)].all (fun r =>
        answer opened (.rd8 r.1) == some ([.byte r.2], 0x003#32)) = true ∧
      [(0x402#12, 0x21#8), (0x403#12, 0x10#8), (0x5FE#12, 0xF0#8), (0x5FF#12, 0x1E#8), (0x600#12, 0x00#8), (0x680#12, 0x41#8),
        (0x6FF#12, 0x79#8)].all (fun r =>
        answer { opened with order := .little } (.rd8 r.1) == some ([.byte r.2], 0x003#32)) = true := by decide +kernel

/-- Closed windows. -/
theorem test_closed_windows :
    answer State.reset (.rd8 0x402#12) = some ([.byte 0x00#8], 0x200#32) ∧
      answer State.reset (.rd8 0x600#12) = some ([.byte 0x00#8], 0x200#32) ∧
      answer { built with status := { Status.reset with v16 := true } } (.rd8 0x600#12) =
        some ([.byte 0x00#8], 0x201#32) := by decide +kernel

/-- CTRL keeps bit 0 only. -/
theorem test_ctrl :
    (after opened (.host (.wr32 0x008#12 0xFFFFFFFF#32))).map (fun t => (t.order, t.status.word)) =
        some (.little, 0x003#32) ∧
      answer { opened with order := .little } (.rd32 0x008#12) = some ([.word 0x00000001#32], 0x003#32) := by
  decide +kernel

/-- The wrong width at a window. -/
theorem test_window_widths :
    answer opened (.rd32 0x400#12) = some ([.word 0x00000000#32], 0x403#32) ∧
      (after opened (.host (.wr8 0x400#12 0xAB#8))).map (fun t => (Table16.read t.tbl16 0x00#8, t.reads, t.status.word)) =
        some (0x0000#16, [], 0x403#32) := by decide +kernel

/-! ## System and errors (section 3.5) -/

/-- The illegal words from reset, and NOP. -/
theorem test_illegal_words :
    statusAfter State.reset (cmd 0x00000000#32) = some 0x000#32 ∧
      [0x00000001#32, 0x01000000#32, 0x0F000000#32, 0x10000001#32, 0x30010000#32, 0x40000100#32, 0x50000100#32,
        0x90000100#32, 0xA0000001#32, 0xB0000000#32, 0xF0000000#32].all (fun w =>
        (after failed (cmd w)).map (fun t => (t.status.word, t.acc16, t.acc7)) == some (0x704#32, 0#16, 0#8) &&
          (after State.reset (cmd w)).map (fun t => (t.status.word, t.acc16, t.acc7)) == some (0x100#32, 0#16, 0#8)) = true := by
  decide +kernel

/-- The bus errors from reset, and PARAM. -/
theorem test_bus_errors :
    [Access.rd32 0x01C#12, .rd32 0x000#12].all (fun a =>
        answer State.reset a == some ([.word 0#32], 0x400#32)) = true ∧
      [Access.rd8 0x004#12, .rd8 0x700#12].all (fun a => answer State.reset a == some ([.byte 0#8], 0x400#32)) = true ∧
      [Access.wr32 0x00C#12 0x1234#32, .wr32 0x004#12 0#32].all (fun a =>
        answer State.reset a == some ([], 0x400#32)) = true ∧
      answer State.reset (.rd32 0x018#12) = some ([.word 0x00891021#32], 0x000#32) := by decide +kernel

/-- CLRERR keeps VFAIL (STATUS 0x704 becomes 0x004), and reset clears everything. -/
theorem test_clrerr_and_reset :
    statusAfter failed (cmd 0xA0000000#32) = some 0x004#32 ∧
      (after opened (.reset [.wr32 0x000#12 0x10000000#32])) = some State.reset := ⟨by decide +kernel, rfl⟩

/-- R88 and R89: script lines and a pseudo-command. -/
theorem test_script :
    assembleLine (.upd16 0x100) = none ∧ assembleLine (.rdbWin16 2) = some (.host (.rd8 0x402#12)) ∧
      assembleScript (Pseudo.peek16 0x80).lines =
        some [cmd 0x30000000#32, cmd 0x50000080#32, .host (.rd32 0x00C#12)] := by decide

/-! ## Witnesses: a concrete case that meets the hypotheses of each statement that has some

Each name is the statement's. Where a statement has several clauses, each clause has its case, at the ends of its range. -/

/-- DecodeInvertsEncode: VERIFY at the ends of its legal range, an operand at its largest. -/
theorem witness_DecodeInvertsEncode :
    Instr.WellFormed (.verify 0#2) ∧ Instr.WellFormed (.verify 2#2) ∧ Instr.WellFormed (.wr16 0xFF#8 0xFFFF#16) := by decide

/-- DecodedWordIsItsEncoding, StepRunsTheDecodedCommand, EachReadReturnsOneValue (a step that runs a command). -/
theorem witness_StepRunsTheDecodedCommand :
    decode 0x9000FFFF#32 = .error .mustBeZero ∧ decode 0x90FF00FF#32 = .ok (.wr7 0xFF#8 0xFF#8) ∧
      step { State.reset with pending := [cmd 0x3000BEEF#32] } = .next { State.reset with acc16 := 0xBEEF#16 } :=
  ⟨by decide, by decide, rfl⟩

/-- IllegalWordSetsIllOnly: one word of each cause at a boundary, and the legal words beside them. -/
theorem witness_IllegalWordSetsIllOnly :
    (IllegalWord 0xB0000000#32 ∧ IllegalWord 0x0FFFFFFF#32 ∧ IllegalWord 0x30010000#32 ∧ IllegalWord 0x60000100#32 ∧
      IllegalWord 0x70000003#32 ∧ IllegalWord 0x70000004#32 ∧ IllegalWord 0x81000000#32 ∧ IllegalWord 0x9000FF00#32) ∧
    (¬ IllegalWord 0xA0000000#32 ∧ ¬ IllegalWord 0x3000FFFF#32 ∧ ¬ IllegalWord 0x600000FF#32 ∧
      ¬ IllegalWord 0x70000002#32 ∧ ¬ IllegalWord 0x80FFFFFF#32 ∧ ¬ IllegalWord 0x90FF00FF#32) := by
  simp [IllegalWord]

/-- OperationsArePerformedInOrder. -/
theorem witness_OperationsArePerformedInOrder : State.reset.pending = [] := rfl

/-- OnlyUnlistedAccessesRaiseBerr. -/
theorem witness_OnlyUnlistedAccessesRaiseBerr : State.reset.status.berr = false := rfl

/-- UnlistedAccessReturnsZeroAndSetsBerr: accesses of each kind next to the listed ones; and listed ones at the ends. -/
theorem witness_UnlistedAccessReturnsZeroAndSetsBerr :
    (¬ ListedAccess (.rd32 0x000#12) ∧ ¬ ListedAccess (.rd32 0x01C#12) ∧ ¬ ListedAccess (.rd8 0x3FF#12) ∧
      ¬ ListedAccess (.rd8 0x700#12) ∧ ¬ ListedAccess (.wr32 0x004#12 0#32) ∧ ¬ ListedAccess (.wr32 0x400#12 0#32) ∧
      ¬ ListedAccess (.wr8 0x000#12 0#8)) ∧
    ListedAccess (.rd32 0x004#12) ∧ ListedAccess (.rd32 0x018#12) ∧ ListedAccess (.rd8 0x400#12) ∧
      ListedAccess (.rd8 0x5FF#12) ∧ ListedAccess (.rd8 0x600#12) ∧ ListedAccess (.rd8 0x6FF#12) ∧
      ListedAccess (.wr32 0x008#12 0#32) := by unfold ListedAccess; decide

/-- ReadsAreIdempotent: a legal read, a refused one and a bus error. -/
theorem witness_ReadsAreIdempotent :
    isRead (.rd32 0x014#12) = true ∧ isRead (.rd8 0x400#12) = true ∧ isRead (.rd32 0x000#12) = true := ⟨rfl, rfl, rfl⟩

/-- Win16ReadDeliversTargetOrder, Win7ReadDeliversTheEntry, WindowsReadOutTheArtifacts: both gates open, both closed. -/
theorem witness_windows :
    (opened.status.v16 = true ∧ opened.status.v7 = true) ∧ State.reset.status.v16 = false ∧ State.reset.status.v7 = false :=
  ⟨⟨rfl, rfl⟩, rfl, rfl⟩

/-- ClosedWindowsRevealNoTableData: a window read, with both gates closed. -/
theorem witness_ClosedWindowsRevealNoTableData :
    State.reset.status.v16 = false ∧ State.reset.status.v7 = false ∧ ∀ w, Access.rd8 0x5FF#12 ≠ .wr32 0x000#12 w :=
  ⟨rfl, rfl, fun _ => nofun⟩

/-- Wr16WritesOneEntry, Wr7WritesOneEntry: an entry beside the one written; the words of each clause. -/
theorem witness_writes :
    (0xFE#8 : Byte) ≠ 0xFF#8 ∧ (0x80FF1EF1#32 : Word) &&& 0xFF000000#32 = 0x80000000#32 ∧
      (0x90FF00FF#32 : Word) &&& 0xFF00FF00#32 = 0x90000000#32 ∧
      ((0x900001FF#32 : Word) &&& 0xF0000000#32 = 0x90000000#32 ∧ (0x900001FF#32 : Word).extractLsb' 8 8 ≠ 0#8) := by decide

/-- Set16LoadsAcc16, Set7LoadsAcc7: the words of each clause. -/
theorem witness_sets :
    (0x3000FFFF#32 : Word) &&& 0xFFFF0000#32 = 0x30000000#32 ∧
      ((0x30010000#32 : Word) &&& 0xF0000000#32 = 0x30000000#32 ∧ (0x30010000#32 : Word).extractLsb' 16 8 ≠ 0#8) ∧
      ((0x31000000#32 : Word) &&& 0xF0000000#32 = 0x30000000#32 ∧ (0x31000000#32 : Word).extractLsb' 24 4 ≠ 0#4) ∧
      (0x400000FF#32 : Word) &&& 0xFFFFFF00#32 = 0x40000000#32 ∧
      ((0x40000100#32 : Word) &&& 0xF0000000#32 = 0x40000000#32 ∧ (0x40000100#32 : Word).extractLsb' 8 20 ≠ 0#20) := by decide

/-- Upd16FoldsOneByte, Upd7FoldsOneByte: the words of each clause. -/
theorem witness_updates :
    (0x500000FF#32 : Word) &&& 0xFFFFFF00#32 = 0x50000000#32 ∧
      ((0x50000100#32 : Word) &&& 0xF0000000#32 = 0x50000000#32 ∧ (0x50000100#32 : Word).extractLsb' 8 20 ≠ 0#20) ∧
      (0x600000FF#32 : Word) &&& 0xFFFFFF00#32 = 0x60000000#32 ∧
      ((0x60000100#32 : Word) &&& 0xF0000000#32 = 0x60000000#32 ∧ (0x60000100#32 : Word).extractLsb' 8 20 ≠ 0#20) := by decide

/-- SevenBitIndexIsNeverTruncated: the built table with the largest 7-bit accumulator. -/
theorem witness_SevenBitIndexIsNeverTruncated : SevenBit { built with tbl7 := built7, acc7 := 0x7F#8 } := by
  have h : ∀ i : Byte, (entry7 i).toNat < 0x80 := by decide +kernel
  exact ⟨fun i => (congrArg BitVec.toNat (Table7.read_built7 i)).trans_lt (h i), by decide⟩

/-- StepKeepsSevenBit: a SET7 of the largest 7-bit value. -/
theorem witness_StepKeepsSevenBit :
    let s := { State.reset with pending := [cmd 0x4000007F#32] }
    SevenBit s ∧ step s = .next { State.reset with acc7 := 0x7F#8 } ∧
      (∀ v : Byte, 0x80 ≤ v.toNat → ¬ NextCommand s (.set7 v)) ∧
      (∀ idx v : Byte, 0x80 ≤ v.toNat → ¬ NextCommand s (.wr7 idx v)) := by
  have hw : ∀ i, NextCommand { State.reset with pending := [cmd 0x4000007F#32] } i → i = .set7 0x7F#8 := by
    rintro i ⟨w, rest, hp, hd⟩
    obtain ⟨⟨⟩, -⟩ := List.cons.inj hp
    rw [show decode 0x4000007F#32 = .ok (.set7 0x7F#8) by decide, Except.ok.injEq] at hd
    exact hd.symm
  refine ⟨⟨fun i => (congrArg BitVec.toNat (Table7.read_zero i)).trans_lt (by decide), by decide⟩, rfl, fun v hv h => ?_, fun idx v _ h => ?_⟩
  · cases hw _ h; exact absurd hv (by decide)
  · cases hw _ h

/-- VerifyRunsTheVectorsAndFailsFast, first clause: every set passes on built tables. -/
theorem witness_VerifyPasses :
    (0#2 : BitVec 2) ≠ 3#2 ∧ ∀ k, Runs 0#2 k → VectorPasses built.tbl16 built.tbl7 k :=
  ⟨by decide, fun k _ => built_passes k⟩

/-- Second clause at its first index: vector 0 fails, with the changed entry. -/
theorem witness_VerifyFailsAt0 :
    Runs 0#2 0 ∧ ¬ VectorPasses (with16 0xFF#8 0x1EF1#16).tbl16 (with16 0xFF#8 0x1EF1#16).tbl7 0 ∧
      ∀ j : Fin 6, j < 0 → Runs 0#2 j → VectorPasses (with16 0xFF#8 0x1EF1#16).tbl16 (with16 0xFF#8 0x1EF1#16).tbl7 j :=
  ⟨.inl ⟨rfl, .inl rfl⟩, with16_fails, fun j hj => absurd hj (Fin.not_lt_zero j)⟩

/-- Second clause at its last index: vector 5 fails with TBL7[0x0E] changed, vectors 1 to 4 pass (section 3.3). -/
theorem witness_VerifyFailsAt5 :
    Runs 2#2 5 ∧ ¬ VectorPasses (with7 0x0E#8 0x7F#8).tbl16 (with7 0x0E#8 0x7F#8).tbl7 5 ∧
      ∀ j : Fin 6, j < 5 → Runs 2#2 j → VectorPasses (with7 0x0E#8 0x7F#8).tbl16 (with7 0x0E#8 0x7F#8).tbl7 j := by
  have hp : ∀ n : Fin 5, n ≠ 4 → Vector7Passes (Table7.write spec7 0x0E#8 0x7F#8) n := by
    intro n hn
    fin_cases n
    all_goals first | (unfold Vector7Passes; decide +kernel) | exact absurd rfl hn
  have hf : ¬ Vector7Passes (Table7.write spec7 0x0E#8 0x7F#8) 4 := by unfold Vector7Passes; decide +kernel
  refine ⟨.inr ⟨by decide, .inr rfl⟩, hf, fun j hj hr => ?_⟩
  fin_cases j
  · rcases hr with ⟨_, h | h⟩ | ⟨h, _⟩
    · exact absurd h (by decide)
    · exact absurd h (by decide)
    · exact absurd rfl h
  · exact hp 0 (by decide)
  · exact hp 1 (by decide)
  · exact hp 2 (by decide)
  · exact hp 3 (by decide)
  · exact absurd hj (by decide)

/-- The word clauses of VerifyRunsTheVectorsAndFailsFast; VerifyAlwaysCompletes (a set of each kind). -/
theorem witness_verify_words :
    ((0x70000002#32 : Word) &&& 0xFFFFFFFC#32 = 0x70000000#32 ∧ (0x70000002#32 : Word).extractLsb' 0 2 ≠ 3#2) ∧
      ((0x70000003#32 : Word) &&& 0xF0000000#32 = 0x70000000#32 ∧ (0x70000003#32 : Word).extractLsb' 0 2 = 3#2) ∧
      ((0x70000004#32 : Word) &&& 0xF0000000#32 = 0x70000000#32 ∧ (0x70000004#32 : Word).extractLsb' 2 26 ≠ 0#26) ∧
      ¬ Covers16 2#2 ∧ ¬ Covers7 1#2 := by unfold Covers16 Covers7; decide

/-- UnreachedEntryIsNotCaught: an entry of TBL16 that vector 0 does not look up and one that it does; an entry of TBL7 beside
the first listed one. -/
theorem witness_UnreachedEntryIsNotCaught :
    (0x07#8 ∈ namedUnreached16 ∧ ¬ LooksUp16 built.tbl16 (List.replicate 512 0xFF#8) 0x07#8) ∧
      LooksUp16 built.tbl16 (List.replicate 512 0xFF#8) 0xFF#8 ∧ 0x0D#8 ∉ reached7 ∧ 0x0E#8 ∈ reached7 := by
  have h : avoids16 spec16 0x07#8 0x0000#16 (List.replicate 512 0xFF#8) = true := by decide +kernel
  exact ⟨⟨by decide, fun ⟨pre, b, post, hm, hi⟩ => avoids16_iff.mp h pre b post hm hi⟩,
    ⟨[], 0xFF#8, List.replicate 511 0xFF#8, rfl, rfl⟩, by decide, by decide⟩

/-- CorruptedEntryIsCaught: a value of each kind, bit 7 being of no account. -/
theorem witness_CorruptedEntryIsCaught :
    (0xCA#8 : Byte).toNat % 128 = 0x4A ∧ (0x4B#8 : Byte).toNat % 128 ≠ 0x4A := by decide

/-- StepKeepsGatesSound, OpenTableIsUnchanged, StepKeepsResultLegal, OnlySetUpdAndResetWriteAccumulators,
OnlyBuildWrAndResetWriteTables: an UPD16 with both gates open. -/
theorem witness_open_step :
    GatesSound { opened with pending := [cmd 0x50000000#32] } ∧ ResultLegal { opened with pending := [cmd 0x50000000#32] } ∧
      ∃ t, step { opened with pending := [cmd 0x50000000#32] } = .next t ∧ t.status.v16 = true ∧ t.status.v7 = true :=
  ⟨⟨fun _ => built_passes 0, fun _ j => built_passes j.succ⟩, ⟨fun _ => rfl, by decide⟩, _, rfl, rfl, rfl⟩

/-- ResultLegal at the end of its range: a failure at vector 5. -/
theorem witness_StepKeepsResultLegal :
    ResultLegal { State.reset with status := { Status.reset with vfail := true, vidx := 5#3 } } :=
  ⟨nofun, by decide⟩

/-- OnlySetUpdAndResetWriteAccumulators, OnlyBuildWrAndResetWriteTables: one step that changes each field. -/
theorem witness_changes :
    (∃ t, step { State.reset with pending := [cmd 0x3000BEEF#32] } = .next t ∧ t.acc16 ≠ State.reset.acc16) ∧
      (∃ t, step { State.reset with pending := [cmd 0x400000FF#32] } = .next t ∧ t.acc7 ≠ State.reset.acc7) ∧
      (∃ t, step { State.reset with pending := [cmd 0x80000001#32] } = .next t ∧
        Table16.read t.tbl16 0#8 ≠ Table16.read State.reset.tbl16 0#8) ∧
      (∃ t, step { State.reset with pending := [cmd 0x90000001#32] } = .next t ∧
        Table7.read t.tbl7 0#8 ≠ Table7.read State.reset.tbl7 0#8) ∧
      (∃ t, step { State.reset with pending := [.host (.wr32 0x008#12 1#32)] } = .next t ∧ t.order ≠ State.reset.order) :=
  ⟨⟨_, rfl, by decide⟩, ⟨_, rfl, by decide⟩, ⟨_, rfl, by decide +kernel⟩, ⟨_, rfl, by decide +kernel⟩, ⟨_, rfl, by decide⟩⟩

/-- GateBitsFollowTheLastVerify: each kind of operation it names, as the next one; and one that is none of them. -/
theorem witness_GateBitsFollowTheLastVerify :
    NextReset { State.reset with pending := [.reset []] } ∧
      NextCommand { State.reset with pending := [cmd 0x10000000#32] } .build16 ∧
      NextCommand { State.reset with pending := [cmd 0x80000001#32] } (.wr16 0x00#8 0x0001#16) ∧
      NextCommand { State.reset with pending := [cmd 0x20000000#32] } .build7 ∧
      NextCommand { State.reset with pending := [cmd 0x90000001#32] } (.wr7 0x00#8 0x01#8) ∧
      (NextCommand { State.reset with pending := [cmd 0x70000001#32] } (.verify 1#2) ∧ Covers16 1#2) ∧
      (NextCommand { State.reset with pending := [cmd 0x70000002#32] } (.verify 2#2) ∧ Covers7 2#2) ∧
      (¬ NextReset State.reset ∧ ∀ i, ¬ NextCommand State.reset i) :=
  ⟨⟨_, _, rfl⟩, ⟨_, _, rfl, by decide⟩, ⟨_, _, rfl, by decide⟩, ⟨_, _, rfl, by decide⟩, ⟨_, _, rfl, by decide⟩,
    ⟨⟨_, _, rfl, by decide⟩, .inr rfl⟩, ⟨⟨_, _, rfl, by decide⟩, .inr rfl⟩, fun ⟨_, _, h⟩ => (nomatch h),
    fun _ ⟨_, _, h, _⟩ => (nomatch h)⟩

/-- VerifyFoldsAtMost537Bytes: a legal set; and the count on both sides of its bound: VERIFY 7 stopped at vector 1 (5 bytes)
and run to its end (25 bytes, vectors 1 to 5 of R160). -/
theorem witness_VerifyFoldsAtMost537Bytes :
    (2#2 : BitVec 2) ≠ 3#2 ∧ foldedBytes 2#2 State.reset.tbl16 State.reset.tbl7 vrom = 5 ∧
      foldedBytes 2#2 State.reset.tbl16 spec7 vrom = 25 := by
  refine ⟨by decide, ?_, ?_⟩ <;> decide +kernel

/-- ScriptLinesAssembleToTheirWords: the first and the last register of `rd` and `wr`. -/
theorem witness_ScriptLinesAssembleToTheirWords :
    (ScriptReg.cmd, (0x000#12 : Offset)) ∈ [(ScriptReg.cmd, 0x000#12), (.status, 0x004#12), (.ctrl, 0x008#12),
        (.acc16, 0x00C#12), (.acc7, 0x010#12), (.dig7, 0x014#12), (.param, 0x018#12)] ∧
      (ScriptReg.param, (0x018#12 : Offset)) ∈ [(ScriptReg.cmd, 0x000#12), (.status, 0x004#12), (.ctrl, 0x008#12),
        (.acc16, 0x00C#12), (.acc7, 0x010#12), (.dig7, 0x014#12), (.param, 0x018#12)] ∧
      assembleLine (.rdbWin16 0xC00) = none ∧ assembleLine (.wr .ctrl 0x100000000) = none ∧
      assembleScript [.rd .status, .set7 0x1FF] = none := by decide

/-- NopChangesNothing, ClrerrClearsTheStickyBits: an illegal word of each OP. -/
theorem witness_system_words :
    ((0x08000000#32 : Word) &&& 0xF0000000#32 = 0x00000000#32 ∧ (0x08000000#32 : Word) ≠ 0x00000000#32) ∧
      ((0xA0000001#32 : Word) &&& 0xF0000000#32 = 0xA0000000#32 ∧ (0xA0000001#32 : Word) ≠ 0xA0000000#32) := by decide

/-- ErrorsStayUntilCleared: a state with every error bit and VFAIL set, and a NOP next. -/
theorem witness_ErrorsStayUntilCleared :
    let s := { failed with pending := [cmd 0x00000000#32] }
    step s = .next failed ∧ ¬ NextReset s ∧ ¬ NextCommand s .clrerr ∧ (∀ set, ¬ NextCommand s (.verify set)) ∧
      s.status.ill = true ∧ s.status.gate = true ∧ s.status.berr = true := by
  have hw : ∀ i, NextCommand { failed with pending := [cmd 0x00000000#32] } i → i = .nop := by
    rintro i ⟨w, rest, hp, hd⟩
    obtain ⟨⟨⟩, -⟩ := List.cons.inj hp
    rw [show decode 0x00000000#32 = .ok .nop by decide, Except.ok.injEq] at hd
    exact hd.symm
  refine ⟨rfl, fun ⟨_, _, h⟩ => (nomatch h), fun h => (nomatch hw _ h), fun set h => (nomatch hw _ h), rfl, rfl, rfl⟩

/-- EachErrorHasItsOneCause: one operation that sets each bit. -/
theorem witness_EachErrorHasItsOneCause :
    (∃ t, step { State.reset with pending := [cmd 0xB0000000#32] } = .next t ∧ t.status.ill = true) ∧
      (∃ t, step { State.reset with pending := [.host (.rd8 0x400#12)] } = .next t ∧ t.status.gate = true) ∧
      (∃ t, step { State.reset with pending := [.host (.rd8 0x6FF#12)] } = .next t ∧ t.status.gate = true) ∧
      (∃ t, step { State.reset with pending := [.host (.rd32 0x01C#12)] } = .next t ∧ t.status.berr = true) ∧
      statusAfter State.reset (cmd 0x70000002#32) = some 0x014#32 :=
  ⟨⟨_, rfl, by decide⟩, ⟨_, rfl, by decide⟩, ⟨_, rfl, by decide⟩, ⟨_, rfl, by decide⟩, by decide +kernel⟩

/-- HostAddressesSelectOffsets: the first and the last offset have addresses. -/
theorem witness_HostAddressesSelectOffsets :
    offsetOf Config.blockBase = some 0x000#12 ∧ offsetOf (Config.blockBase + 4095) = some 0xFFF#12 := by
  simp [offsetOf]

/-! ## Section 3.3, the table of flipped entries (last, since it takes the kernel longest) -/

/-- Bit 0 of each reached TBL7 entry flipped: VIDX of the VERIFY that follows. -/
theorem test_verify_flipped_entries :
    [(0x0E#8, 5), (0x19#8, 2), (0x1A#8, 2), (0x20#8, 4), (0x2A#8, 5), (0x2E#8, 4), (0x40#8, 1), (0x48#8, 2), (0x50#8, 3),
      (0x58#8, 2), (0x69#8, 3), (0x6A#8, 2), (0x6E#8, 3), (0x77#8, 4), (0x78#8, 5), (0x7A#8, 5), (0x92#8, 1), (0x98#8, 4),
      (0xA8#8, 3), (0xC8#8, 1), (0xCC#8, 1), (0xD0#8, 5), (0xDA#8, 1), (0xE0#8, 4), (0xFA#8, 3)].all (fun r =>
        (after (with7 r.1 (Table7.read spec7 r.1 ^^^ 1#8)) (cmd 0x70000002#32)).map (·.status.vidx) ==
          some (BitVec.ofNat 3 r.2)) = true := by decide +kernel

end Sys2Proof.Tests
end

section
/-! PROOFS of 00_scope.md: what a step adds to the list of values read (R9). -/

namespace Sys2Proof.Machine

/-! ## What each access adds to the values read -/

/-- From `s` to `t` the list of values read grew by `n` values at its end. -/
def ReturnsValues (n : Nat) (s t : State) : Prop :=
  ∃ vs : List ReadValue, t.reads = s.reads ++ vs ∧ vs.length = n

theorem ReturnsValues.none {s t : State} (h : t.reads = s.reads) : ReturnsValues 0 s t :=
  ⟨[], by simp [h], rfl⟩

theorem ReturnsValues.one {s t : State} {v : ReadValue} (h : t.reads = s.reads ++ [v]) : ReturnsValues 1 s t :=
  ⟨[v], h, rfl⟩

@[simp] theorem writeCtrl_reads (v : Word) (s : State) : (writeCtrl v s).reads = s.reads := rfl

@[simp] theorem closedWindowRead_reads (s : State) : (closedWindowRead s).reads = s.reads ++ [.byte 0x00#8] := rfl

/-- A WIN16 read returns one value, whether the gate is open or closed (43_emission.md R180, R183). -/
theorem readWin16_returns_one (k : BitVec 9) (s : State) : ReturnsValues 1 s (readWin16 k s) := by
  unfold readWin16
  split
  case isTrue => exact .one (State.reply_reads ..)
  case isFalse => exact .one (closedWindowRead_reads s)

/-- A WIN7 read returns one value, whether the gate is open or closed (43_emission.md R182, R183). -/
theorem readWin7_returns_one (k : Byte) (s : State) : ReturnsValues 1 s (readWin7 k s) := by
  unfold readWin7
  split
  case isTrue => exact .one (State.reply_reads ..)
  case isFalse => exact .one (closedWindowRead_reads s)

/-- A refused read still returns a value, and a refused write none (20_memory.md R53). -/
theorem length_refusedReply (a : Access) : (refusedReply a).length = if isRead a then 1 else 0 := by
  cases a <;> rfl

/-- A command that a CMD write starts returns no value (`exec_keeps`); every read does, refused or not. -/
theorem perform_returnsValues {a : Access} {s t : State} (h : perform a s = .next t) :
    ReturnsValues (if isRead a then 1 else 0) s t := by
  obtain ⟨w, i, rfl, -, hexec⟩ | ⟨w, e, rfl, -, rfl⟩ | ⟨v, rfl, rfl⟩ | ⟨off, v, rfl, -, -, rfl⟩ | ⟨k, rfl, rfl⟩ |
    ⟨k, rfl, rfl⟩ | ⟨-, rfl⟩ := perform_cases h
  · obtain ⟨-, hreads, -⟩ := exec_keeps hexec
    exact .none hreads
  · exact .none (raise_reads ..)
  · exact .none (writeCtrl_reads v s)
  · exact .one (State.reply_reads ..)
  · exact readWin16_returns_one k s
  · exact readWin7_returns_one k s
  · exact ⟨refusedReply a, rfl, length_refusedReply a⟩

/-! ## The statement -/

/-- Settles O10: the step serves the operation at the front; `perform_returnsValues` counts what an access returns, and a
reset keeps the list. -/
theorem eachReadReturnsOneValue : Obligations.EachReadReturnsOneValue := by
  intro s t op rest h
  rw [step_serves rfl] at h
  cases op with
  | reset abandoned =>
    cases h
    exact ReturnsValues.none (resetBlock_reads _)
  | host a => exact perform_returnsValues (s := s.withPending rest) h

end Sys2Proof.Machine
end

section
/-! PROOFS of 10_state.md: what the registers show to the host (R28 to R34), who writes each piece of state (R21, R22, R30,
R35, R36), and the facts about STATUS and the CRC7 side that every step keeps (R22, R29, R36, R42). -/

namespace Sys2Proof.Machine

/-! ## The rules of a host access -/

/-- What a register shows does not depend on the operations waiting. -/
@[simp] theorem registerWord_withPending (s : State) (rest : List Input) (target : Target) :
    registerWord (s.withPending rest) target = registerWord s target := by
  cases target <;> rfl

/-- A 4-byte read of a register returns what the register shows and changes nothing else (20_memory.md R52, R59). -/
theorem rd32_returns {off : Offset} {shown : State → Word}
    (h : ∀ s, registerWord s (locate off) = some (shown s)) :
    AccessDoes (.rd32 off) fun s => { s with reads := s.reads ++ [.word (shown s)] } := by
  intro s rest
  have hshown : registerWord (s.withPending rest) (locate off) = some (shown s) :=
    (registerWord_withPending ..).trans (h s)
  have hread : read32 off (s.withPending rest) = (s.withPending rest).reply (.word (shown s)) := by
    simp only [read32, hshown]
  exact congrArg Host.Outcome.next hread

/-- An access that R52 does not list is a bus error: it sets BERR, and a read of it returns 0 (R53). -/
theorem perform_unlisted {a : Access} (hl : ¬ ListedAccess a) (s : State) :
    perform a s = .next { raise .berr s with reads := s.reads ++ refusedReply a } := by
  cases a with
  | wr32 off v =>
    rcases write32_cases off v s with ⟨rfl, -, -⟩ | ⟨rfl, -, -⟩ | ⟨rfl, -⟩ | ⟨-, hw⟩
    · exact absurd (.inl rfl) hl
    · exact absurd (.inl rfl) hl
    · exact absurd (.inr rfl) hl
    · simp [perform, hw, raise, refusedReply, State.withStatus]
  | wr8 off v => simp [perform, write8, raise, refusedReply, State.withStatus]
  | rd32 off =>
    have hnone : registerWord s (locate off) = none := by simpa [listed_rd32 s] using hl
    simp [perform, read32, hnone, refusedReply, State.reply]
  | rd8 off =>
    rw [listed_rd8, not_or] at hl
    obtain ⟨h16, h7⟩ := hl
    cases hloc : locate off with
    | win16 k => exact absurd ⟨k, hloc⟩ h16
    | win7 k => exact absurd ⟨k, hloc⟩ h7
    | _ => simp [perform, read8, hloc, refusedReply, State.reply]

/-- The same as one step, whatever waits behind it. -/
theorem unlisted_isBusError {a : Access} (hl : ¬ ListedAccess a) :
    AccessDoes a fun s => { s with reads := s.reads ++ refusedReply a, status := { s.status with berr := true } } :=
  fun s rest => perform_unlisted hl (s.withPending rest)

/-- A write that R52 does not list returns nothing, so BERR is its only effect. -/
theorem unlisted_write_isBusError {a : Access} (hl : ¬ ListedAccess a) (hw : refusedReply a = []) :
    AccessDoes a fun s => { s with status := { s.status with berr := true } } := by
  simpa [hw] using unlisted_isBusError hl

/-- Only CMD and CTRL take a write; every other offset refuses one of either width (10_state.md R31 to R34). -/
theorem writeIsBusError {off : Offset} (hcmd : off ≠ 0x000#12) (hctrl : off ≠ 0x008#12) : WriteIsBusError off := by
  have hl : ∀ v, ¬ ListedAccess (.wr32 off v) := fun v => by
    rw [listed_wr32, locate_eq_cmd, locate_eq_ctrl]
    exact not_or.mpr ⟨hcmd, hctrl⟩
  exact ⟨fun v => unlisted_write_isBusError (hl v) rfl, fun _ => unlisted_write_isBusError id rfl⟩

/-- A CMD write hands its word to the engine (10_state.md R28). -/
theorem step_commandWrite (s : State) (rest : List Input) (w : Word) :
    step { s with pending := .host (.wr32 0x000#12 w) :: rest } = runCommand w (s.withPending rest) := rfl

theorem runCommand_ok {w : Word} {i : Instr} (h : decode w = .ok i) (s : State) : runCommand w s = exec i s := by
  simp [runCommand, h]

theorem runCommand_error {w : Word} {e : DecodeError} (h : decode w = .error e) (s : State) :
    runCommand w s = .next (raise .ill s) := by
  simp [runCommand, h]

/-! ## What the registers show -/

/-- The layout of STATUS (R29): each field at its bits. -/
theorem Status.word_fields (f : Status) :
    f.word.getLsbD 0 = f.v16 ∧ f.word.getLsbD 1 = f.v7 ∧ f.word.getLsbD 2 = f.vfail ∧
      f.word.extractLsb' 4 3 = f.vidx ∧ f.word.getLsbD 8 = f.ill ∧ f.word.getLsbD 9 = f.gate ∧
      f.word.getLsbD 10 = f.berr := by
  refine ⟨?_, ?_, ?_, ?vidx, ?_, ?_, ?_⟩
  case vidx =>
    apply BitVec.eq_of_getLsbD_eq
    intro j hj
    simp only [BitVec.getLsbD_extractLsb', Status.word, BitVec.getLsbD_append]
    interval_cases j <;> simp
  all_goals simp only [Status.word, BitVec.getLsbD_append]; simp

/-- The reserved bits of STATUS, 3, 7 and 31:11, read 0 (R29). -/
theorem Status.word_reserved (f : Status) : f.word &&& 0xFFFFF888#32 = 0#32 := by
  apply BitVec.eq_of_getLsbD_eq
  intro j hj
  simp only [BitVec.getLsbD_and, Status.word, BitVec.getLsbD_append]
  interval_cases j <;> simp

/-- Zero-extension is concatenation with zeros (00_scope.md R10). -/
theorem zext32_eq_append {m n : Nat} (v : BitVec n) (h : m + n = 32) : zext32 v = (0#m ++ v).cast h := by
  apply BitVec.eq_of_toNat_eq
  rw [zext32_toNat (by omega), BitVec.toNat_cast, toNat_append_add, BitVec.toNat_ofNat, Nat.zero_mod, Nat.zero_mul,
    Nat.zero_add]

/-- Finalization is doubling and adding 1, modulo 256 (41_reference_codec.md R134). -/
theorem fin7_toNat (c : Byte) : (fin7 c).toNat = (2 * c.toNat + 1) % 256 := by
  have hdisjoint : c <<< 1 &&& 1#8 = 0#8 := by
    ext j hj
    simpa using fun hpos _ => hpos
  rw [fin7, ← BitVec.add_eq_or_of_and_eq_zero _ _ hdisjoint]
  bv_omega

/-! ## Settled: the host's view of the registers -/

/-- Settles O8: a CMD write is `runCommand` by `step_commandWrite`, and R52 lists no read of CMD. -/
theorem stepRunsTheDecodedCommand : Obligations.StepRunsTheDecodedCommand := by
  have hrd32 : ¬ ListedAccess (.rd32 0x000#12) := by unfold ListedAccess; decide
  have hrd8 : ¬ ListedAccess (.rd8 0x000#12) := by unfold ListedAccess; decide
  refine ⟨fun s rest w i hd => (step_commandWrite s rest w).trans (runCommand_ok hd _),
    fun w hw s rest => (step_commandWrite s rest w).trans ?_, unlisted_isBusError hrd32, unlisted_isBusError hrd8⟩
  cases hd : decode w with
  | ok i => exact absurd hd (hw i)
  | error e => exact runCommand_error hd _

/-- Settles O15: the read returns `Status.word`, whose layout the two lemmas above give. -/
theorem statusReadShowsItsFields : Obligations.StatusReadShowsItsFields := by
  intro s rest
  obtain ⟨hv16, hv7, hvfail, hvidx, hill, hgate, hberr⟩ := s.status.word_fields
  have hread := rd32_returns (off := 0x004#12) (shown := fun s => s.status.word) (fun _ => rfl) s rest
  exact ⟨s.status.word, hread, hv16, hv7, hvfail, hvidx, hill, hgate, hberr, s.status.word_reserved⟩

/-- Settles O16: each register shows its value, and only CMD and CTRL take a write. -/
theorem registerViewsAreReadOnly : Obligations.RegisterViewsAreReadOnly := by
  refine ⟨rd32_returns fun s => ?acc16, rd32_returns fun s => ?acc7, rd32_returns fun _ => rfl, ?_, ?_, ?_⟩
  case acc16 => exact congrArg some (zext32_eq_append s.acc16 rfl)
  case acc7 => exact congrArg some (zext32_eq_append s.acc7 rfl)
  all_goals exact writeIsBusError (by decide) (by decide)

/-- Settles O17: DIG7 shows `fin7` of ACC7, as a number by `fin7_toNat`. -/
theorem digestViewFinalizesAcc7 : Obligations.DigestViewFinalizesAcc7 := by
  have hshown : ∀ c : Byte, zext32 (fin7 c) = BitVec.ofNat 32 ((2 * c.toNat + 1) % 256) := fun c => by
    rw [← fin7_toNat, BitVec.ofNat_toNat, zext32]
  exact ⟨rd32_returns fun s => congrArg some (hshown s.acc7), writeIsBusError (by decide) (by decide)⟩

/-- Settles O18: CTRL takes and shows ORDER, and R52 lists no 1-byte access to it. -/
theorem controlRegisterHoldsOrder : Obligations.ControlRegisterHoldsOrder := by
  have hrd8 : ¬ ListedAccess (.rd8 0x008#12) := by unfold ListedAccess; decide
  refine ⟨fun v s rest => rfl, rd32_returns fun s => ?_, fun v => unlisted_write_isBusError id rfl,
    unlisted_isBusError hrd8⟩
  show some (zext32 s.order.bit) = _
  cases s.order <;> rfl

/-! ## What a step can do to the engine's state -/

/-- From `s` to `t` nothing changed that only commands and reset change: the accumulators, the tables, the gate bits and the
result of VERIFY. -/
structure KeepsEngine (s t : State) : Prop where
  acc16 : t.acc16 = s.acc16
  acc7 : t.acc7 = s.acc7
  tbl16 : t.tbl16 = s.tbl16
  tbl7 : t.tbl7 = s.tbl7
  v16 : t.status.v16 = s.status.v16
  v7 : t.status.v7 = s.status.v7
  vfail : t.status.vfail = s.status.vfail
  vidx : t.status.vidx = s.status.vidx

theorem KeepsEngine.refl (s : State) : KeepsEngine s s := ⟨rfl, rfl, rfl, rfl, rfl, rfl, rfl, rfl⟩

theorem keepsEngine_raise (e : Error) (s : State) : KeepsEngine s (raise e s) := by
  obtain ⟨hv16, hv7, hvfail, hvidx⟩ := s.status.record_keeps_result e
  exact ⟨rfl, rfl, rfl, rfl, hv16, hv7, hvfail, hvidx⟩

/-- The operations waiting are no part of the engine. -/
theorem KeepsEngine.of_withPending {s t : State} {rest : List Input} (h : KeepsEngine (s.withPending rest) t) :
    KeepsEngine s t :=
  ⟨h.acc16, h.acc7, h.tbl16, h.tbl7, h.v16, h.v7, h.vfail, h.vidx⟩

/-- The list of values read is no part of the engine. -/
theorem KeepsEngine.with_reads {s t : State} (h : KeepsEngine s t) (vs : List ReadValue) :
    KeepsEngine s { t with reads := vs } :=
  ⟨h.acc16, h.acc7, h.tbl16, h.tbl7, h.v16, h.v7, h.vfail, h.vidx⟩

theorem keepsEngine_reply (v : ReadValue) (s : State) : KeepsEngine s (s.reply v) := (KeepsEngine.refl s).with_reads _

theorem keepsEngine_closedWindowRead (s : State) : KeepsEngine s (closedWindowRead s) :=
  (keepsEngine_raise .gate s).with_reads _

/-- A WIN16 read changes no more than GATE and the values read (43_emission.md R180, R183). -/
theorem readWin16_keeps (k : BitVec 9) (s : State) :
    KeepsEngine s (readWin16 k s) ∧ (readWin16 k s).order = s.order := by
  unfold readWin16
  split
  case isTrue => exact ⟨keepsEngine_reply _ s, rfl⟩
  case isFalse => exact ⟨keepsEngine_closedWindowRead s, rfl⟩

/-- A WIN7 read changes no more than GATE and the values read (R182, R183). -/
theorem readWin7_keeps (k : Byte) (s : State) :
    KeepsEngine s (readWin7 k s) ∧ (readWin7 k s).order = s.order := by
  unfold readWin7
  split
  case isTrue => exact ⟨keepsEngine_reply _ s, rfl⟩
  case isFalse => exact ⟨keepsEngine_closedWindowRead s, rfl⟩

/-- An access runs a command, or leaves the engine's state alone and ORDER too unless it writes CTRL. -/
theorem perform_command_or_keeps {a : Access} {s t : State} (h : perform a s = .next t) :
    (∃ w i, a = .wr32 0x000#12 w ∧ decode w = .ok i ∧ exec i s = .next t) ∨
    (KeepsEngine s t ∧ (t.order = s.order ∨ ∃ v, a = .wr32 0x008#12 v)) := by
  obtain hcommand | ⟨w, e, rfl, -, rfl⟩ | ⟨v, rfl, rfl⟩ | ⟨off, v, rfl, -, -, rfl⟩ | ⟨k, rfl, rfl⟩ | ⟨k, rfl, rfl⟩ |
    ⟨-, rfl⟩ := perform_cases h
  · exact .inl hcommand
  · exact .inr ⟨keepsEngine_raise .ill s, .inl rfl⟩
  · exact .inr ⟨⟨rfl, rfl, rfl, rfl, rfl, rfl, rfl, rfl⟩, .inr ⟨v, rfl⟩⟩
  · exact .inr ⟨keepsEngine_reply _ s, .inl rfl⟩
  · obtain ⟨hkeeps, horder⟩ := readWin16_keeps k s
    exact .inr ⟨hkeeps, .inl horder⟩
  · obtain ⟨hkeeps, horder⟩ := readWin7_keeps k s
    exact .inr ⟨hkeeps, .inl horder⟩
  · exact .inr ⟨(keepsEngine_raise .berr s).with_reads _, .inl rfl⟩

/-- A step resets the block, runs a command, or leaves the engine's state alone and ORDER too unless it writes CTRL. -/
theorem step_reset_or_command_or_keeps {s t : State} (h : step s = .next t) :
    (NextReset s ∧ ∃ rest, t = resetBlock (s.withPending rest)) ∨
    (∃ i rest, NextCommand s i ∧ exec i (s.withPending rest) = .next t) ∨
    (KeepsEngine s t ∧ (t.order = s.order ∨ ∃ v rest, s.pending = .host (.wr32 0x008#12 v) :: rest)) := by
  obtain ⟨-, rfl⟩ | ⟨abandoned, rest, hp, rfl⟩ | ⟨a, rest, hp, hperform⟩ := step_cases h
  · exact .inr (.inr ⟨.refl t, .inl rfl⟩)
  · exact .inl ⟨⟨abandoned, rest, hp⟩, rest, rfl⟩
  · obtain ⟨w, i, rfl, hd, hexec⟩ | ⟨hkept, horder⟩ := perform_command_or_keeps hperform
    · exact .inr (.inl ⟨i, rest, ⟨w, rest, hp, hd⟩, hexec⟩)
    · refine .inr (.inr ⟨hkept.of_withPending, horder.imp_right ?_⟩)
      rintro ⟨v, rfl⟩
      exact ⟨v, rest, hp⟩

/-! ## Which commands write which field -/

/-- VERIFY changes STATUS alone (42_verifier.md R165). -/
theorem exec_verify_keeps {set : BitVec 2} {s t : State} (h : exec (.verify set) s = .next t) :
    ∃ f, t = s.withStatus f := by
  by_cases hset : set = 3#2
  · subst hset
    rw [exec_verify_illegal] at h
    cases h
    exact ⟨_, rfl⟩
  · rw [exec_verify s hset] at h
    cases h
    exact ⟨_, rfl⟩

theorem exec_writes_acc16 {i : Instr} {s t : State} (h : exec i s = .next t) :
    t.acc16 = s.acc16 ∨ (∃ v, i = .set16 v) ∨ ∃ b, i = .upd16 b := by
  cases i with
  | set16 v => exact .inr (.inl ⟨v, rfl⟩)
  | upd16 b => exact .inr (.inr ⟨b, rfl⟩)
  | verify set => obtain ⟨f, rfl⟩ := exec_verify_keeps h; exact .inl rfl
  | _ => cases h; exact .inl rfl

theorem exec_writes_acc7 {i : Instr} {s t : State} (h : exec i s = .next t) :
    t.acc7 = s.acc7 ∨ (∃ v, i = .set7 v) ∨ ∃ b, i = .upd7 b := by
  cases i with
  | set7 v => exact .inr (.inl ⟨v, rfl⟩)
  | upd7 b => exact .inr (.inr ⟨b, rfl⟩)
  | verify set => obtain ⟨f, rfl⟩ := exec_verify_keeps h; exact .inl rfl
  | _ => cases h; exact .inl rfl

theorem exec_writes_tbl16 {i : Instr} {s t : State} (h : exec i s = .next t) :
    t.tbl16 = s.tbl16 ∨ i = .build16 ∨ ∃ idx v, i = .wr16 idx v := by
  cases i with
  | build16 => exact .inr (.inl rfl)
  | wr16 idx v => exact .inr (.inr ⟨idx, v, rfl⟩)
  | verify set => obtain ⟨f, rfl⟩ := exec_verify_keeps h; exact .inl rfl
  | _ => cases h; exact .inl rfl

theorem exec_writes_tbl7 {i : Instr} {s t : State} (h : exec i s = .next t) :
    t.tbl7 = s.tbl7 ∨ i = .build7 ∨ ∃ idx v, i = .wr7 idx v := by
  cases i with
  | build7 => exact .inr (.inl rfl)
  | wr7 idx v => exact .inr (.inr ⟨idx, v, rfl⟩)
  | verify set => obtain ⟨f, rfl⟩ := exec_verify_keeps h; exact .inl rfl
  | _ => cases h; exact .inl rfl

/-- A piece of the engine's state that a step changed was written by reset or by a command that writes it. -/
theorem step_writer {α : Type} (field : State → α) (writes : Instr → Prop)
    (hpending : ∀ s rest, field (s.withPending rest) = field s)
    (hkeeps : ∀ s t, KeepsEngine s t → field t = field s)
    (hexec : ∀ i s t, exec i s = .next t → field t = field s ∨ writes i)
    {s t : State} (h : step s = .next t) (hne : field t ≠ field s) :
    NextReset s ∨ ∃ i, NextCommand s i ∧ writes i := by
  obtain ⟨hreset, -⟩ | ⟨i, rest, hnext, hi⟩ | ⟨hkept, -⟩ := step_reset_or_command_or_keeps h
  · exact .inl hreset
  · rw [← hpending s rest] at hne
    exact .inr ⟨i, hnext, (hexec i _ t hi).resolve_left hne⟩
  · exact absurd (hkeeps s t hkept) hne

/-! ## Settled: who may change what -/

/-- Settles O56: `step_writer` at each accumulator. -/
theorem onlySetUpdAndResetWriteAccumulators : Obligations.OnlySetUpdAndResetWriteAccumulators := by
  intro s t h
  constructor
  · intro hne
    obtain hreset | ⟨i, hnext, ⟨v, rfl⟩ | ⟨b, rfl⟩⟩ := step_writer State.acc16 _ (fun _ _ => rfl)
      (fun _ _ hk => hk.acc16) (fun _ _ _ => exec_writes_acc16) h hne
    · exact .inl hreset
    · exact .inr (.inl ⟨v, hnext⟩)
    · exact .inr (.inr ⟨b, hnext⟩)
  · intro hne
    obtain hreset | ⟨i, hnext, ⟨v, rfl⟩ | ⟨b, rfl⟩⟩ := step_writer State.acc7 _ (fun _ _ => rfl)
      (fun _ _ hk => hk.acc7) (fun _ _ _ => exec_writes_acc7) h hne
    · exact .inl hreset
    · exact .inr (.inl ⟨v, hnext⟩)
    · exact .inr (.inr ⟨b, hnext⟩)

/-- The ORDER part of R30: no command changes it (`exec_keeps`). -/
theorem step_writes_order {s t : State} (h : step s = .next t) (hne : t.order ≠ s.order) :
    NextReset s ∨ ∃ v rest, s.pending = .host (.wr32 0x008#12 v) :: rest := by
  obtain ⟨hreset, -⟩ | ⟨i, rest, -, hi⟩ | ⟨-, horder⟩ := step_reset_or_command_or_keeps h
  · exact .inl hreset
  · obtain ⟨-, -, horder⟩ := exec_keeps hi
    exact absurd horder hne
  · exact .inr (horder.resolve_left hne)

/-- Settles O57: `step_writer` at each table, `step_writes_order` for ORDER. -/
theorem onlyBuildWrAndResetWriteTables : Obligations.OnlyBuildWrAndResetWriteTables := by
  intro s t h
  refine ⟨fun hne => ?_, fun hne => ?_, step_writes_order h⟩
  · obtain hreset | ⟨i, hnext, rfl | ⟨idx, v, rfl⟩⟩ := step_writer State.tbl16 _ (fun _ _ => rfl)
      (fun _ _ hk => hk.tbl16) (fun _ _ _ => exec_writes_tbl16) h hne
    · exact .inl hreset
    · exact .inr (.inl hnext)
    · exact .inr (.inr ⟨idx, v, hnext⟩)
  · obtain hreset | ⟨i, hnext, rfl | ⟨idx, v, rfl⟩⟩ := step_writer State.tbl7 _ (fun _ _ => rfl)
      (fun _ _ hk => hk.tbl7) (fun _ _ _ => exec_writes_tbl7) h hne
    · exact .inl hreset
    · exact .inr (.inl hnext)
    · exact .inr (.inr ⟨idx, v, hnext⟩)

/-! ## The result of VERIFY -/

theorem resultLegal_resetBlock (s : State) : ResultLegal (resetBlock s) := ⟨fun _ => rfl, Nat.zero_le 5⟩

theorem resultLegal_of_eq {s t : State} (hs : ResultLegal s) (hvfail : t.status.vfail = s.status.vfail)
    (hvidx : t.status.vidx = s.status.vidx) : ResultLegal t := by
  rwa [ResultLegal, hvfail, hvidx]

/-- A legal VERIFY leaves (0, 0) or (1, k), and k is the index of a vector (42_verifier.md R161, R164). -/
theorem resultLegal_verifiedStatus (set : BitVec 2) (t16 : Table16) (t7 : Table7) (f : Status) (s : State) :
    ResultLegal { s with status := verifiedStatus set t16 t7 f } := by
  unfold verifiedStatus
  cases hm : firstMismatch set t16 t7 vrom with
  | none => exact ⟨fun _ => rfl, Nat.zero_le 5⟩
  | some k => exact ⟨nofun, vrom_index hm⟩

theorem exec_keeps_resultLegal {i : Instr} {s t : State} (hs : ResultLegal s) (h : exec i s = .next t) :
    ResultLegal t := by
  cases i with
  | verify set =>
    by_cases hset : set = 3#2
    · subst hset
      rw [exec_verify_illegal] at h
      cases h
      exact hs
    · rw [exec_verify s hset] at h
      cases h
      exact resultLegal_verifiedStatus ..
  | _ => cases h; exact hs

/-- Settles O49: only reset and VERIFY write the result, and both leave a legal one. -/
theorem stepKeepsResultLegal : Obligations.StepKeepsResultLegal := by
  intro s t hs h
  obtain ⟨-, rest, rfl⟩ | ⟨i, rest, -, hi⟩ | ⟨hkept, -⟩ := step_reset_or_command_or_keeps h
  · exact resultLegal_resetBlock _
  · exact exec_keeps_resultLegal (s := s.withPending rest) hs hi
  · exact resultLegal_of_eq hs hkept.vfail hkept.vidx

/-! ## The CRC7 side is 7-bit -/

/-- The reduction by POLY7 clears bit 7 (40_table_builder.md R102). -/
theorem reduce7_lt (r : Byte) : (reduce7 r).toNat < 0x80 := by
  have hmsb : (reduce7 r).msb = false := by
    unfold reduce7
    split
    case isTrue h => simp [h, poly7]; decide
    case isFalse h => simpa using h
  exact BitVec.toNat_lt_of_msb_false hmsb

/-- BUILD7's last round ends in a reduction, so every entry is 7-bit (R103 (a)). -/
theorem entry7_lt (i : Byte) : (entry7 i).toNat < 0x80 := by
  rw [entry7, Function.iterate_succ_apply', round7]
  exact reduce7_lt _

theorem sevenBit_resetBlock (s : State) : SevenBit (resetBlock s) :=
  ⟨fun i => by simp, by simp⟩

theorem sevenBit_of_eq {s t : State} (hs : SevenBit s) (htbl7 : t.tbl7 = s.tbl7) (hacc7 : t.acc7 = s.acc7) :
    SevenBit t := by
  rwa [SevenBit, htbl7, hacc7]

/-- Only the operands of SET7 and WR7 can bring bit 7 in: BUILD7 writes reduced values, UPD7 copies an entry. -/
theorem exec_keeps_sevenBit {i : Instr} {s t : State} (hs : SevenBit s) (h : exec i s = .next t)
    (hset7 : ∀ v, i = .set7 v → v.toNat < 0x80) (hwr7 : ∀ idx v, i = .wr7 idx v → v.toNat < 0x80) : SevenBit t := by
  obtain ⟨htbl7, hacc7⟩ := hs
  cases i with
  | build7 =>
    rw [exec_build7] at h
    cases h
    exact ⟨fun j => by simpa using entry7_lt j, hacc7⟩
  | set7 v => cases h; exact ⟨htbl7, hset7 v rfl⟩
  | upd7 b => cases h; exact ⟨htbl7, htbl7 _⟩
  | wr7 idx v =>
    cases h
    refine ⟨fun j => ?_, hacc7⟩
    show (Table7.read (Table7.write s.tbl7 idx v) j).toNat < 0x80
    by_cases hj : j = idx
    · subst hj
      rw [Table7.read_write_same]
      exact hwr7 j v rfl
    · rw [Table7.read_write_other _ _ hj]
      exact htbl7 j
  | verify set => obtain ⟨f, rfl⟩ := exec_verify_keeps h; exact ⟨htbl7, hacc7⟩
  | _ => cases h; exact ⟨htbl7, hacc7⟩

/-- Settles O40: only reset and commands write the CRC7 side. -/
theorem stepKeepsSevenBit : Obligations.StepKeepsSevenBit := by
  intro s t hs h hset7 hwr7
  obtain ⟨-, rest, rfl⟩ | ⟨i, rest, hnext, hi⟩ | ⟨hkept, -⟩ := step_reset_or_command_or_keeps h
  · exact sevenBit_resetBlock _
  · refine exec_keeps_sevenBit (s := s.withPending rest) hs hi ?_ ?_
    · rintro v rfl
      exact Nat.lt_of_not_le fun hv => hset7 v hv hnext
    · rintro idx v rfl
      exact Nat.lt_of_not_le fun hv => hwr7 idx v hv hnext
  · exact sevenBit_of_eq hs hkept.tbl7 hkept.acc7

/-! ## Settled: the state after reset -/

/-- Settles O11: R42's table, field by field. -/
theorem resetStateIsAllZero : Obligations.ResetStateIsAllZero :=
  ⟨rfl, rfl, Table16.read_zero, Table7.read_zero, rfl, rfl⟩

/-- Settles O50: both gates are closed, VIDX is 0, and the CRC7 side is 0. -/
theorem invariantsHoldAtReset : Obligations.InvariantsHoldAtReset :=
  ⟨⟨nofun, nofun⟩, resultLegal_resetBlock State.reset, sevenBit_resetBlock State.reset⟩

end Sys2Proof.Machine
end

section
/-! PROOFS of 20_memory.md: the order of operations (R62), the access table and the bus error (R52, R53), reads (R59), host
addresses (R50), and the bytes a VERIFY folds (R67). -/

namespace Sys2Proof.Machine

/-! ## What waits behind an operation has no part in it -/

/-- `f` answers a next state, and the same one with `rest` waiting where `rest` waited (R62). -/
def IgnoresPending (f : State → Host.Outcome State Fault Refusal) : Prop :=
  ∀ s : State, ∃ t : State, f s = .next t ∧ ∀ rest, f (s.withPending rest) = .next (t.withPending rest)

/-- An operation that always answers a next state needs only commute with replacing what waits. -/
theorem IgnoresPending.of_commutes {g : State → State}
    (h : ∀ s rest, g (s.withPending rest) = (g s).withPending rest) : IgnoresPending fun s => .next (g s) :=
  fun s => ⟨g s, rfl, fun rest => congrArg Host.Outcome.next (h s rest)⟩

theorem exec_ignoresPending (i : Instr) : IgnoresPending (exec i) := by
  intro s
  cases i with
  | verify set =>
    by_cases hset : set = 3#2
    · subst hset
      exact ⟨_, exec_verify_illegal s, fun rest => exec_verify_illegal (s.withPending rest)⟩
    · exact ⟨_, exec_verify s hset, fun rest => exec_verify (s.withPending rest) hset⟩
  | _ => exact ⟨_, rfl, fun _ => rfl⟩

theorem runCommand_ignoresPending (w : Word) : IgnoresPending (runCommand w) := by
  intro s
  cases hd : decode w with
  | ok i =>
    obtain ⟨t, ht, hrest⟩ := exec_ignoresPending i s
    exact ⟨t, (runCommand_ok hd s).trans ht, fun rest => (runCommand_ok hd _).trans (hrest rest)⟩
  | error e => exact ⟨raise .ill s, runCommand_error hd s, fun rest => runCommand_error hd _⟩

theorem write32_ignoresPending (off : Offset) (v : Word) : IgnoresPending (write32 off v) := by
  intro s
  unfold write32
  cases locate off with
  | cmd => exact runCommand_ignoresPending v s
  | _ => exact ⟨_, rfl, fun _ => rfl⟩

theorem readWin16_withPending (k : BitVec 9) (s : State) (rest : List Input) :
    readWin16 k (s.withPending rest) = (readWin16 k s).withPending rest := by
  unfold readWin16
  rw [State.withPending_status]
  split <;> rfl

theorem readWin7_withPending (k : Byte) (s : State) (rest : List Input) :
    readWin7 k (s.withPending rest) = (readWin7 k s).withPending rest := by
  unfold readWin7
  rw [State.withPending_status]
  split <;> rfl

theorem read32_withPending (off : Offset) (s : State) (rest : List Input) :
    read32 off (s.withPending rest) = (read32 off s).withPending rest := by
  unfold read32
  rw [registerWord_withPending]
  split <;> rfl

theorem read8_withPending (off : Offset) (s : State) (rest : List Input) :
    read8 off (s.withPending rest) = (read8 off s).withPending rest := by
  unfold read8
  cases locate off with
  | win16 k => exact readWin16_withPending k s rest
  | win7 k => exact readWin7_withPending k s rest
  | _ => rfl

theorem perform_ignoresPending (a : Access) : IgnoresPending (perform a) := by
  cases a with
  | rd32 off => exact .of_commutes (read32_withPending off)
  | rd8 off => exact .of_commutes (read8_withPending off)
  | wr32 off v => exact write32_ignoresPending off v
  | wr8 off v => exact .of_commutes fun _ _ => rfl

theorem serve_ignoresPending (op : Input) : IgnoresPending (serve op) := by
  cases op with
  | host a => exact perform_ignoresPending a
  | reset abandoned => exact .of_commutes fun _ _ => rfl

/-- Settles O9: a step serves the operation at the front, and serving one ignores what waits. -/
theorem operationsArePerformedInOrder : Obligations.OperationsArePerformedInOrder := by
  refine ⟨fun _ => step_idle, fun s op => ?_⟩
  obtain ⟨t, -, hrest⟩ := serve_ignoresPending op s
  exact ⟨t, hrest⟩

/-! ## The access table and the bus error -/

/-- Settles O14, by the rule of an unlisted access. -/
theorem unlistedAccessReturnsZeroAndSetsBerr : Obligations.UnlistedAccessReturnsZeroAndSetsBerr :=
  fun _ => unlisted_isBusError

/-- A legal VERIFY leaves the sticky bits as they are (42_verifier.md R161, R165). -/
theorem verifiedStatus_keeps_sticky (set : BitVec 2) (t16 : Table16) (t7 : Table7) (f : Status) :
    (verifiedStatus set t16 t7 f).ill = f.ill ∧ (verifiedStatus set t16 t7 f).gate = f.gate ∧
      (verifiedStatus set t16 t7 f).berr = f.berr := by
  unfold verifiedStatus
  cases firstMismatch set t16 t7 vrom <;> exact ⟨rfl, rfl, rfl⟩

/-- No command raises BERR: CLRERR clears it and the others keep it. -/
theorem exec_raises_no_berr {i : Instr} {s t : State} (h : exec i s = .next t) (hs : s.status.berr = false) :
    t.status.berr = false := by
  cases i with
  | clrerr => cases h; rfl
  | verify set =>
    by_cases hset : set = 3#2
    · subst hset
      cases h
      exact hs
    · rw [exec_verify s hset] at h
      cases h
      obtain ⟨-, -, hberr⟩ := verifiedStatus_keeps_sticky set s.tbl16 s.tbl7 s.status
      exact hberr.trans hs
  | _ => cases h; exact hs

theorem readWin16_berr (k : BitVec 9) (s : State) : (readWin16 k s).status.berr = s.status.berr := by
  unfold readWin16
  split <;> rfl

theorem readWin7_berr (k : Byte) (s : State) : (readWin7 k s).status.berr = s.status.berr := by
  unfold readWin7
  split <;> rfl

/-- An access that R52 lists raises no BERR. -/
theorem listed_raises_no_berr {a : Access} {s t : State} (hl : ListedAccess a) (h : perform a s = .next t)
    (hs : s.status.berr = false) : t.status.berr = false := by
  obtain ⟨w, i, -, -, hexec⟩ | ⟨w, e, -, -, rfl⟩ | ⟨v, -, rfl⟩ | ⟨off, v, -, -, -, rfl⟩ | ⟨k, -, rfl⟩ | ⟨k, -, rfl⟩ |
    ⟨hunlisted, -⟩ := perform_cases h
  · exact exec_raises_no_berr hexec hs
  · exact hs
  · exact hs
  · exact hs
  · exact (readWin16_berr k s).trans hs
  · exact (readWin7_berr k s).trans hs
  · exact absurd hl hunlisted

/-- Settles O13: the step answers a state by `perform_ignoresPending`; an unlisted access sets BERR, a listed one does not. -/
theorem onlyUnlistedAccessesRaiseBerr : Obligations.OnlyUnlistedAccessesRaiseBerr := by
  intro s a rest hs
  by_cases hl : ListedAccess a
  · obtain ⟨t, ht, -⟩ := perform_ignoresPending a (s.withPending rest)
    have hberr : t.status.berr = false := listed_raises_no_berr hl ht hs
    exact ⟨t, ht, by simp [hberr, hl]⟩
  · exact ⟨_, unlisted_isBusError hl s rest, by simp [hl]⟩

/-! ## Reads -/

/-- From `s` the read `a` returns `v` and leaves STATUS at `f` and all else as it was, whatever waits behind it and whatever
values have been read before. -/
def ReadGives (a : Access) (s : State) (v : ReadValue) (f : Status) : Prop :=
  ∀ rest vs, perform a { s with pending := rest, reads := vs } =
    .next { s with pending := rest, reads := vs ++ [v], status := f }

/-- A read that, performed again, gives the same value and leaves the same state (R59). -/
def ReadRepeats (a : Access) (s : State) : Prop :=
  ∃ v f, ReadGives a s v f ∧ ReadGives a (s.withStatus f) v f

/-- A read that leaves STATUS alone leaves the state from which it gave its value. -/
theorem ReadGives.repeats {a : Access} {s : State} {v : ReadValue} (h : ReadGives a s v s.status) : ReadRepeats a s :=
  ⟨v, s.status, h, h⟩

/-- A read that raises an error before and after that error is recorded: recording it again changes nothing (60_exceptions.md
R217). -/
theorem readRepeats_of_error {a : Access} {s : State} {v : ReadValue} {e : Error}
    (h : ReadGives a s v (s.status.record e))
    (hagain : ReadGives a (raise e s) v ((s.status.record e).record e)) : ReadRepeats a s := by
  have hidem : (s.status.record e).record e = s.status.record e := by cases e <;> rfl
  rw [hidem] at hagain
  exact ⟨v, _, h, hagain⟩

theorem unlisted_read_gives {a : Access} {v : ReadValue} (hl : ¬ ListedAccess a) (hv : refusedReply a = [v]) (s : State) :
    ReadGives a s v (s.status.record .berr) := fun rest vs => by
  rw [perform_unlisted hl, hv]
  rfl

/-- A register read gives what the register shows. -/
theorem rd32_gives {off : Offset} {s : State} {v : Word} (h : registerWord s (locate off) = some v) :
    ReadGives (.rd32 off) s (.word v) s.status := fun rest vs => by
  have hshown : registerWord { s with pending := rest, reads := vs } (locate off) = some v := by
    rw [← h]
    cases locate off <;> rfl
  simp only [perform, read32, hshown]
  rfl

/-- A read that a gate guards repeats: open, it leaves STATUS alone; closed, the error that it records leaves the gate closed
(43_emission.md R180, R182, R183). -/
theorem gated_read_repeats {a : Access} (gate : State → Bool) (shown : State → Byte)
    (hread : ∀ u, perform a u = .next (if gate u then u.reply (.byte (shown u)) else closedWindowRead u))
    {s : State} (hgate : ∀ rest vs, gate { s with pending := rest, reads := vs } = gate s)
    (hraise : ∀ rest vs, gate { raise .gate s with pending := rest, reads := vs } = gate s)
    (hshown : ∀ rest vs, shown { s with pending := rest, reads := vs } = shown s) : ReadRepeats a s := by
  cases hg : gate s with
  | true =>
    refine ReadGives.repeats (v := .byte (shown s)) fun rest vs => ?_
    rw [hread, hgate, hshown, hg]
    rfl
  | false =>
    refine readRepeats_of_error (v := .byte 0x00#8) (e := .gate) (fun rest vs => ?_) (fun rest vs => ?_)
    · rw [hread, hgate, hg]
      rfl
    · rw [hread, hraise, hg]
      rfl

/-- A byte read of a window repeats. -/
theorem window_read_repeats {off : Offset} (hl : ListedAccess (.rd8 off)) (s : State) : ReadRepeats (.rd8 off) s := by
  obtain ⟨k, hloc⟩ | ⟨k, hloc⟩ := (listed_rd8 off).mp hl
  · refine gated_read_repeats (fun u => u.status.v16) (fun u => win16Byte u.tbl16 u.order k) (fun u => ?_)
      (fun _ _ => rfl) (fun _ _ => rfl) (fun _ _ => rfl)
    simp only [perform, read8, hloc, readWin16]
  · refine gated_read_repeats (fun u => u.status.v7) (fun u => Table7.read u.tbl7 k) (fun u => ?_)
      (fun _ _ => rfl) (fun _ _ => rfl) (fun _ _ => rfl)
    simp only [perform, read8, hloc, readWin7]

theorem unlisted_read_repeats {a : Access} {v : ReadValue} (hl : ¬ ListedAccess a) (hv : refusedReply a = [v]) (s : State) :
    ReadRepeats a s :=
  readRepeats_of_error (unlisted_read_gives hl hv s) (unlisted_read_gives hl hv (raise .berr s))

theorem read_repeats {a : Access} (ha : isRead a = true) (s : State) : ReadRepeats a s := by
  cases a with
  | rd32 off =>
    cases hshown : registerWord s (locate off) with
    | some v => exact (rd32_gives hshown).repeats
    | none => exact unlisted_read_repeats (by simp [listed_rd32 s, hshown]) rfl s
  | rd8 off =>
    by_cases hl : ListedAccess (.rd8 off)
    · exact window_read_repeats hl s
    · exact unlisted_read_repeats hl rfl s
  | wr32 off v => cases ha
  | wr8 off v => cases ha

/-- Settles O19: `read_repeats`, with the first read's value appended before the second read. -/
theorem readsAreIdempotent : Obligations.ReadsAreIdempotent := by
  intro s a ha
  obtain ⟨v, f, hfirst, hsecond⟩ := read_repeats ha s
  exact ⟨v, { s with reads := s.reads ++ [v], status := f }, rfl, fun rest => hfirst rest s.reads,
    fun rest => hsecond rest (s.reads ++ [v])⟩

/-! ## The bytes a VERIFY folds -/

/-- What the loop answers is the index of one of its vectors. -/
theorem firstMismatch_mem {set : BitVec 2} {t16 : Table16} {t7 : Table7} {vs : List (BitVec 3 × KnownAnswer)} {i : BitVec 3}
    (h : firstMismatch set t16 t7 vs = some i) : ∃ v, (i, v) ∈ vs := by
  induction vs with
  | nil => cases h
  | cons kv vs ih =>
    obtain ⟨k, v⟩ := kv
    rw [firstMismatch_cons] at h
    split at h
    case isTrue =>
      cases h
      exact ⟨v, List.mem_cons_self⟩
    case isFalse =>
      obtain ⟨v', hmem⟩ := ih h
      exact ⟨v', List.mem_cons_of_mem _ hmem⟩

/-- What one vector adds to the count when the loop ends at `stop`: its message, where the set covers it and it does not
stand behind `stop`. -/
def bytesUpTo (set : BitVec 2) (stop : Option (BitVec 3)) (kv : BitVec 3 × KnownAnswer) : Nat :=
  if kv.2.covered set = true ∧ stop.all (kv.1.toNat ≤ ·.toNat) = true then kv.2.length else 0

/-- Vectors in index order: the loop folds the messages of those it covers, up to and including the one it answers. -/
theorem foldedBytes_eq_sum {set : BitVec 2} {t16 : Table16} {t7 : Table7} {vs : List (BitVec 3 × KnownAnswer)}
    (hsorted : vs.Pairwise fun a b => a.1.toNat < b.1.toNat) :
    foldedBytes set t16 t7 vs = (vs.map (bytesUpTo set (firstMismatch set t16 t7 vs))).sum := by
  induction vs with
  | nil => rfl
  | cons kv vs ih =>
    obtain ⟨k, v⟩ := kv
    obtain ⟨hk, hvs⟩ := List.pairwise_cons.mp hsorted
    rw [foldedBytes_cons, firstMismatch_cons, List.map_cons, List.sum_cons]
    by_cases hstop : v.covered set = true ∧ v.mismatch t16 t7 = true
    · have hrest : (vs.map (bytesUpTo set (some k))).sum = 0 := by
        refine List.sum_eq_zero fun n hn => ?_
        obtain ⟨kv, hmem, rfl⟩ := List.mem_map.mp hn
        exact if_neg fun h => absurd (of_decide_eq_true h.2) (hk kv hmem).not_ge
      rw [if_pos hstop, if_pos hstop.1, if_pos hstop.2, hrest]
      simp [bytesUpTo, hstop.1]
    · have hall : (firstMismatch set t16 t7 vs).all (k.toNat ≤ ·.toNat) = true := by
        cases hm : firstMismatch set t16 t7 vs with
        | none => rfl
        | some i =>
          obtain ⟨v', hmem⟩ := firstMismatch_mem hm
          exact decide_eq_true (hk _ hmem).le
      rw [if_neg hstop, ← ih hvs]
      by_cases hc : v.covered set = true
      · have hpass : v.mismatch t16 t7 ≠ true := fun hm => hstop ⟨hc, hm⟩
        simp [bytesUpTo, hc, hpass, hall]
      · simp [bytesUpTo, hc]

/-- VROM stands in index order (42_verifier.md R160). -/
theorem vrom_sorted : vrom.Pairwise fun a b => a.1.toNat < b.1.toNat := by decide

theorem vrom_length : vrom.length = 6 := rfl

/-- The message lengths of R160. -/
theorem vrom_messageLength (k : Fin 6) : (vrom[k.val]'k.isLt).2.length = messageLength k := by
  fin_cases k
  · exact List.length_replicate
  all_goals rfl

/-- What vector `k` of VROM adds, in the terms of Safety.lean. -/
theorem bytesUpTo_vrom (set : BitVec 2) (stop : Option (BitVec 3)) (k : Fin 6) :
    bytesUpTo set stop (vrom[k.val]'k.isLt) =
      if Runs set k ∧ stop.all (k.val ≤ ·.toNat) = true then messageLength k else 0 := by
  obtain ⟨v, hv, hcovered, -⟩ := vrom_vector set (Vector.replicate 256 0#16) (Vector.replicate 256 0#8) k
  have hget : vrom[k.val]'k.isLt = (BitVec.ofNat 3 k.val, v) := (List.getElem?_eq_some_iff.mp hv).2
  have hindex : (BitVec.ofNat 3 k.val).toNat = k.val := by
    simp only [BitVec.toNat_ofNat]
    omega
  have hlength := vrom_messageLength k
  rw [hget] at hlength ⊢
  simp only [bytesUpTo, hcovered, hindex, hlength]

/-- The count over VROM as a sum over the vector indices of R160. -/
theorem foldedBytes_vrom (set : BitVec 2) (t16 : Table16) (t7 : Table7) :
    foldedBytes set t16 t7 vrom =
      ∑ k : Fin 6,
        if Runs set k ∧ (firstMismatch set t16 t7 vrom).all (k.val ≤ ·.toNat) = true then messageLength k else 0 := by
  calc foldedBytes set t16 t7 vrom
      = (vrom.map (bytesUpTo set (firstMismatch set t16 t7 vrom))).sum := foldedBytes_eq_sum vrom_sorted
    _ = ∑ k : Fin 6, bytesUpTo set (firstMismatch set t16 t7 vrom) (vrom[k.val]'k.isLt) :=
        (Fin.sum_univ_fun_getElem vrom _).symm
    _ = _ := Finset.sum_congr rfl fun k _ => bytesUpTo_vrom set _ k

/-- 512 + 5 x 5 (R67): every message at most once. -/
theorem foldedBytes_vrom_le (set : BitVec 2) (t16 : Table16) (t7 : Table7) : foldedBytes set t16 t7 vrom ≤ 537 := by
  rw [foldedBytes_vrom]
  calc _ ≤ ∑ k : Fin 6, messageLength k := Finset.sum_le_sum fun k _ => by split <;> omega
    _ = 537 := by decide

/-- VFAIL and VIDX name the vector the loop answers, and no vector stands behind none. -/
theorem verifiedStatus_stops_at (set : BitVec 2) (t16 : Table16) (t7 : Table7) (f : Status) (n : Nat) :
    ((verifiedStatus set t16 t7 f).vfail = true → n ≤ (verifiedStatus set t16 t7 f).vidx.toNat) ↔
      (firstMismatch set t16 t7 vrom).all (n ≤ ·.toNat) = true := by
  unfold verifiedStatus
  cases firstMismatch set t16 t7 vrom <;> simp

/-- Settles O51: the sum of `foldedBytes_vrom`, its bound, and VFAIL and VIDX read as the loop's answer. -/
theorem verifyFoldsAtMost537Bytes : Obligations.VerifyFoldsAtMost537Bytes := by
  refine ⟨foldedBytes_vrom, fun s set hset => ⟨_, exec_verify s hset, ?_, foldedBytes_vrom_le ..⟩⟩
  simp only [verifiedStatus_stops_at]
  exact foldedBytes_vrom ..

/-! ## Host addresses -/

theorem offsetOf_hostAddress (off : Offset) : offsetOf (hostAddress off) = some off := by
  have hlt : off.toNat < 4096 := off.isLt
  simp [offsetOf, hostAddress, hlt]

theorem eq_of_offsetOf {address : Nat} {off : Offset} (h : offsetOf address = some off) :
    address = Config.blockBase + off.toNat := by
  unfold offsetOf at h
  split at h
  case isTrue hin =>
    cases h
    rw [BitVec.toNat_ofNat]
    omega
  case isFalse => cases h

/-- Settles O59: both directions of R50. -/
theorem hostAddressesSelectOffsets : Obligations.HostAddressesSelectOffsets :=
  ⟨offsetOf_hostAddress, fun _ _ => eq_of_offsetOf⟩

end Sys2Proof.Machine
end

section
/-! PROOFS of 30_encoding.md: the decoder and the encoder undo each other (R80 to R82, R85), the only no-op word (R85), and
the words and pseudo-commands of a script (R88, R89). -/

namespace Sys2Proof.Machine

/-! ## A word and its fields -/

/-- DATA is an 8-bit operand, widened, exactly when its high byte is 0 and its low byte is the operand (R81, R82). -/
theorem dataField_eq_zext16_byte (w : Word) (b : Byte) :
    dataField w = zext16 b ↔ dataHigh w = 0#8 ∧ byteField w = b := by
  simp only [← BitVec.toNat_inj, dataField_toNat, dataHigh_toNat, byteField_toNat, zext16_toNat (show 8 ≤ 16 by decide),
    BitVec.toNat_ofNat]
  omega

/-- The same for the 2-bit operand of VERIFY, whose unused bits are 15:8 and 7:2. -/
theorem dataField_eq_zext16_set (w : Word) (set : BitVec 2) :
    dataField w = zext16 set ↔ dataHigh w = 0#8 ∧ verifyHigh w = 0#6 ∧ setField w = set := by
  simp only [← BitVec.toNat_inj, dataField_toNat, dataHigh_toNat, verifyHigh_toNat, setField_toNat,
    zext16_toNat (show 2 ≤ 16 by decide), BitVec.toNat_ofNat]
  omega

/-- A word is assembled from `op`, `idx` and `data` exactly when these are its fields and RSV is 0 (R80). -/
theorem assemble_eq_iff (op : BitVec 4) (idx : Byte) (data : Half) (w : Word) :
    assemble op idx data = w ↔ opField w = op ∧ rsvField w = 0#4 ∧ idxField w = idx ∧ dataField w = data := by
  constructor
  · rintro rfl
    exact ⟨opField_assemble .., rsvField_assemble .., idxField_assemble .., dataField_assemble ..⟩
  · rintro ⟨rfl, hrsv, rfl, rfl⟩
    exact assemble_fields w hrsv

/-! ## Decoding and encoding -/

theorem wellFormed_verify (set : BitVec 2) : Instr.WellFormed (.verify set) ↔ set ≠ 3#2 := bne_iff_ne

/-- The OP of an assembled word selects the command's row, whose must-be-zero bits are 0 and whose operands are read back. -/
theorem decode_encode {i : Instr} (h : i.WellFormed) : decode (encode i) = .ok i := by
  cases i with
  | nop | build16 | build7 | clrerr => rfl
  | set16 | wr16 =>
    simp [encode, decode, whenZero, opField_assemble, rsvField_assemble, idxField_assemble, dataField_assemble]
  | set7 | upd16 | upd7 | wr7 =>
    simp [encode, decode, whenZero, opField_assemble, rsvField_assemble, idxField_assemble, dataHigh_assemble_zext,
      byteField_assemble_zext]
  | verify set =>
    have hset := (wellFormed_verify set).mp h
    simp [encode, decode, whenZero, opField_assemble, rsvField_assemble, idxField_assemble,
      verify_unused_assemble_zext, setField_assemble_zext, hset]

/-- The fields of a word that decodes are those of the word of its command: no bit is left free (R82, R85). -/
theorem encode_of_decode {w : Word} {i : Instr} (h : decode w = .ok i) : i.WellFormed ∧ encode i = w := by
  obtain ⟨hrsv, hrow⟩ := decode_ok_cases h
  rcases hrow with ⟨hop, hidx, hdata, rfl⟩ | ⟨hop, hidx, hdata, rfl⟩ | ⟨hop, hidx, hdata, rfl⟩ | ⟨hop, hidx, rfl⟩ |
    ⟨hop, hidx, hhigh, rfl⟩ | ⟨hop, hidx, hhigh, rfl⟩ | ⟨hop, hidx, hhigh, rfl⟩ |
    ⟨hop, hidx, hhigh, hmid, hset, rfl⟩ | ⟨hop, rfl⟩ | ⟨hop, hhigh, rfl⟩ | ⟨hop, hidx, hdata, rfl⟩
  all_goals
    rw [encode, assemble_eq_iff]
    simp [Instr.WellFormed, Instr.wellFormed, dataField_eq_zext16_byte, dataField_eq_zext16_set, *]

theorem decode_eq_ok_iff {w : Word} {i : Instr} : decode w = .ok i ↔ i.WellFormed ∧ encode i = w :=
  ⟨encode_of_decode, fun ⟨hwf, hw⟩ => hw ▸ decode_encode hwf⟩

/-- Settles O1, by the fields of an assembled word. -/
theorem decodeInvertsEncode : Obligations.DecodeInvertsEncode := fun _ => decode_encode

/-- Settles O2: row by row, the fields of the word are those of the command's word. -/
theorem decodedWordIsItsEncoding : Obligations.DecodedWordIsItsEncoding := fun _ _ => encode_of_decode

/-! ## The rows of R82 as masks -/

/-- Two words are the same when all their fields are (R80; 15:8, 7:2 and 1:0 are the parts of DATA). -/
theorem word_eq_iff_fields (u v : Word) :
    u = v ↔ opField u = opField v ∧ rsvField u = rsvField v ∧ idxField u = idxField v ∧ dataHigh u = dataHigh v ∧
      verifyHigh u = verifyHigh v ∧ setField u = setField v := by
  simp only [← BitVec.toNat_inj, opField_toNat, rsvField_toNat, idxField_toNat, dataHigh_toNat, verifyHigh_toNat,
    setField_toNat]
  omega

/-- A masked comparison is one of each field under its part of the mask. -/
theorem and_eq_iff_fields (w mask m : Word) :
    w &&& mask = m ↔
      opField w &&& opField mask = opField m ∧ rsvField w &&& rsvField mask = rsvField m ∧
      idxField w &&& idxField mask = idxField m ∧ dataHigh w &&& dataHigh mask = dataHigh m ∧
      verifyHigh w &&& verifyHigh mask = verifyHigh m ∧ setField w &&& setField mask = setField m := by
  rw [word_eq_iff_fields]
  simp only [opField, rsvField, idxField, dataHigh, verifyHigh, setField, BitVec.extractLsb'_and]

/-- The parts of R82's masks that are all ones keep the field under them. -/
theorem and_ones4 (x : BitVec 4) : x &&& 0xF#4 = x := BitVec.and_allOnes

theorem and_ones6 (x : BitVec 6) : x &&& 0x3F#6 = x := BitVec.and_allOnes

theorem and_ones8 (x : Byte) : x &&& 0xFF#8 = x := BitVec.and_allOnes

theorem and_ones32 (x : Word) : x &&& 0xFFFFFFFF#32 = x := BitVec.and_allOnes

/-- A row without operands: its mask is all ones, so its word is the match itself. -/
theorem decode_eq_ok_iff_and_ones {w m : Word} {i : Instr} (hwf : i.WellFormed) (hm : encode i = m) :
    decode w = .ok i ↔ w &&& 0xFFFFFFFF#32 = m := by
  rw [decode_eq_ok_iff, hm, and_ones32, eq_comm (a := w)]
  exact and_iff_right hwf

/-- Settles O3: a word selects a row exactly when it is the word of the row's command (`decode_eq_ok_iff`); for a row with
operands both sides are compared field by field. -/
theorem wordSelectsItsTableRow : Obligations.WordSelectsItsTableRow := by
  intro w
  refine ⟨?nop, ?build16, ?build7, fun imm16 => ?set16, fun imm8 => ?set7, fun b => ?upd16, fun b => ?upd7,
    fun set => ?verify, fun idx imm16 => ?wr16, fun idx imm8 => ?wr7, ?clrerr⟩
  case nop | build16 | build7 | clrerr => exact decode_eq_ok_iff_and_ones rfl rfl
  all_goals
    simp only [decode_eq_ok_iff, encode, assemble_eq_iff, dataField_eq_zext16_byte, dataField_eq_zext16_set,
      wellFormed_verify, and_eq_iff_fields]
    simp only [opField, rsvField, idxField, dataField, dataHigh, byteField, verifyHigh, setField,
      BitVec.reduceExtractLsb', BitVec.and_zero, and_ones4, and_ones6, and_ones8, and_true]
    tauto

/-! ## The only no-op word -/

/-- A word is a no-op exactly when handing it to the engine changes no state. -/
theorem commandDoes_nothing_iff {w : Word} : CommandDoes w (fun s => s) ↔ ∀ s, runCommand w s = .next s :=
  ⟨fun h s => h s s.pending, fun h s rest => h (s.withPending rest)⟩

/-- A state that every command but NOP, SET16 and SET7 changes whatever its operands, and so does an illegal word: both gates
are open, GATE is set, ILL is not, VIDX is 7, which no VERIFY leaves, and the accumulators hold 1 over tables of zeros. -/
def restless : State :=
  { State.reset with
    acc16 := 1#16
    acc7 := 1#8
    status := { Status.reset with v16 := true, v7 := true, vidx := 7#3, gate := true } }

/-- An answer that differs from `s` in some field is not `s`. -/
theorem ne_next_of_field {α : Type} {o : Host.Outcome State Fault Refusal} {s t : State} (field : State → α)
    (ho : o = .next t) (hne : field t ≠ field s) : o ≠ .next s :=
  fun h => hne (congrArg field (Host.Outcome.next.inj (ho.symm.trans h)))

/-- No VERIFY leaves `restless` as it is: a legal one leaves a legal result, and set 3 sets ILL (42_verifier.md R161). -/
theorem exec_verify_changes_restless (set : BitVec 2) : exec (.verify set) restless ≠ .next restless := by
  by_cases hset : set = 3#2
  · subst hset
    exact ne_next_of_field (·.status.ill) (exec_verify_illegal restless) (by decide)
  · obtain ⟨-, hvidx⟩ := resultLegal_verifiedStatus set restless.tbl16 restless.tbl7 restless.status restless
    exact ne_next_of_field (·.status.vidx.toNat) (exec_verify restless hset) (hvidx.trans_lt (by decide)).ne

/-- Every command but NOP changes some state. -/
theorem exec_changes_a_state {i : Instr} (hi : i ≠ .nop) : ∃ s, exec i s ≠ .next s := by
  cases i with
  | nop => exact absurd rfl hi
  | build16 => exact ⟨restless, ne_next_of_field (·.status.v16) (exec_build16 restless) Bool.false_ne_true⟩
  | build7 => exact ⟨restless, ne_next_of_field (·.status.v7) (exec_build7 restless) Bool.false_ne_true⟩
  | set16 v => exact ⟨restless.withAcc16 (v + 1#16), ne_next_of_field (·.acc16) (exec_set16 _ v) (by simp)⟩
  | set7 v => exact ⟨restless.withAcc7 (v + 1#8), ne_next_of_field (·.acc7) (exec_set7 _ v) (by simp)⟩
  | upd16 b =>
    refine ⟨restless, ne_next_of_field (·.acc16) (exec_upd16 restless b) ?_⟩
    simp [restless, State.reset, upd16]
  | upd7 b =>
    refine ⟨restless, ne_next_of_field (·.acc7) (exec_upd7 restless b) ?_⟩
    simp [restless, State.reset, upd7]
  | verify set => exact ⟨restless, exec_verify_changes_restless set⟩
  | wr16 idx imm16 => exact ⟨restless, ne_next_of_field (·.status.v16) (exec_wr16 restless idx imm16) Bool.false_ne_true⟩
  | wr7 idx imm8 => exact ⟨restless, ne_next_of_field (·.status.v7) (exec_wr7 restless idx imm8) Bool.false_ne_true⟩
  | clrerr => exact ⟨restless, ne_next_of_field (·.status.gate) (exec_clrerr restless) Bool.false_ne_true⟩

/-- Settles O5: an illegal word sets ILL, and a legal one other than NOP's changes a state of its own. -/
theorem nopIsTheOnlyNoOpWord : Obligations.NopIsTheOnlyNoOpWord := by
  intro w
  rw [commandDoes_nothing_iff]
  constructor
  · intro h
    cases hd : decode w with
    | error e => exact absurd (h restless) (ne_next_of_field (·.status.ill) (runCommand_error hd restless) (by decide))
    | ok i =>
      by_cases hi : i = .nop
      · subst hi
        obtain ⟨-, hw⟩ := encode_of_decode hd
        exact hw.symm
      · obtain ⟨s, hs⟩ := exec_changes_a_state hi
        exact absurd ((runCommand_ok hd s).symm.trans (h s)) hs
  · rintro rfl s
    exact runCommand_ok (decode_encode (i := .nop) rfl) s

/-! ## The lines of a script -/

/-- A line whose operands must fit stands for its operation when they do, and for nothing otherwise. -/
theorem whenFits_decide {fits : Prop} [Decidable fits] {x y : Input} (h : fits → x = y) :
    whenFits (decide fits) x = if fits then some y else none := by
  by_cases hf : fits
  · simp [whenFits, hf, h hf]
  · simp [whenFits, hf]

/-- An 8-bit operand that fits is not cut where it is widened. -/
theorem zext16_ofNat {v : Nat} (hv : v ≤ 0xFF) : zext16 (BitVec.ofNat 8 v) = BitVec.ofNat 16 v := by
  apply BitVec.eq_of_toNat_eq
  rw [zext16_toNat (by decide), BitVec.toNat_ofNat, BitVec.toNat_ofNat]
  omega

/-- A command line whose operands fit writes the sum of OP and the operands, each at its place (R80, R88). -/
theorem commandLine_eq {i : Instr} {op : BitVec 4} {idx v n : Nat}
    (hi : encode i = assemble op (BitVec.ofNat 8 idx) (BitVec.ofNat 16 v)) (hidx : idx ≤ 0xFF) (hv : v ≤ 0xFFFF)
    (hn : op.toNat * 0x10000000 + idx * 0x10000 + v = n) :
    commandLine i = .host (.wr32 0x000#12 (BitVec.ofNat 32 n)) := by
  have hword : encode i = BitVec.ofNat 32 n := by
    subst hn
    apply BitVec.eq_of_toNat_eq
    rw [hi, assemble_toNat, BitVec.toNat_ofNat, BitVec.toNat_ofNat, BitVec.toNat_ofNat]
    omega
  rw [commandLine, commandWrite, hword]

/-- A window line is refused exactly when its offset would pass 0xFFF (log entry 14). -/
theorem whenFits_window {base k last : Nat} (hlast : base + last = 0xFFF) :
    whenFits (decide (base + k ≤ 0xFFF)) (.host (.rd8 (BitVec.ofNat 12 (base + k)))) =
      if k ≤ last then some (.host (.rd8 (BitVec.ofNat 12 base + BitVec.ofNat 12 k))) else none := by
  rw [whenFits_decide fun _ => rfl, BitVec.ofNat_add]
  exact if_congr (by omega) rfl rfl

/-- A script assembles exactly when every line does, to their operations in order. -/
theorem assembleScript_eq_some_iff (lines : List ScriptLine) (ops : List Input) :
    assembleScript lines = some ops ↔ lines.map assembleLine = ops.map some := by
  induction lines generalizing ops with
  | nil => cases ops <;> simp [assembleScript]
  | cons l ls ih =>
    cases ops with
    | nil => cases hl : assembleLine l <;> cases hls : assembleScript ls <;> simp [assembleScript, hl, hls]
    | cons op ops =>
      rw [List.map_cons, List.map_cons, List.cons.injEq, ← ih]
      cases hl : assembleLine l <;> cases hls : assembleScript ls <;> simp [assembleScript, hl, hls]

/-- The offsets of the registers, as R88 lists them. -/
theorem offset_of_listed {reg : ScriptReg} {off : Offset}
    (h : (reg, off) ∈ [(ScriptReg.cmd, 0x000#12), (.status, 0x004#12), (.ctrl, 0x008#12), (.acc16, 0x00C#12),
      (.acc7, 0x010#12), (.dig7, 0x014#12), (.param, 0x018#12)]) : reg.offset = off := by
  cases reg <;> simp_all [ScriptReg.offset]

/-- Settles O7: a command line by `commandLine_eq`, and a script by `assembleScript_eq_some_iff`. -/
theorem scriptLinesAssembleToTheirWords : Obligations.ScriptLinesAssembleToTheirWords := by
  refine ⟨rfl, rfl, rfl, fun v => ?set16, fun v => ?set7, fun b => ?upd16, fun b => ?upd7, rfl, rfl, rfl,
    fun idx v => ?wr16, fun idx v => ?wr7, rfl, fun w => whenFits_decide fun _ => rfl, fun reg off hoff => ?reg,
    fun k => whenFits_window rfl, fun k => whenFits_window rfl, assembleScript_eq_some_iff, rfl, rfl, rfl⟩
  case set16 => exact whenFits_decide fun hv => commandLine_eq rfl (Nat.zero_le _) hv (by simp)
  case set7 | upd16 | upd7 =>
    exact whenFits_decide fun hv =>
      commandLine_eq (congrArg (assemble _ 0#8) (zext16_ofNat hv)) (Nat.zero_le _) (hv.trans (by decide)) (by simp)
  case wr16 => exact whenFits_decide fun ⟨hidx, hv⟩ => commandLine_eq rfl hidx hv rfl
  case wr7 =>
    exact whenFits_decide fun ⟨hidx, hv⟩ =>
      commandLine_eq (congrArg (assemble _ _) (zext16_ofNat hv)) hidx (hv.trans (by decide)) rfl
  case reg =>
    obtain rfl := offset_of_listed hoff
    exact ⟨rfl, fun v => whenFits_decide fun _ => rfl⟩

/-- Settles O6: each word is the word of its command. -/
theorem scriptWordsDecode : Obligations.ScriptWordsDecode := by
  unfold Obligations.ScriptWordsDecode
  and_intros <;> exact decode_eq_ok_iff.mpr ⟨rfl, rfl⟩

/-! ## Reading a table through an accumulator -/

/-- A command line runs its command. -/
theorem run_commandLine {i : Instr} (hwf : i.WellFormed) {s t : State} {rest : List Input}
    (ht : exec i (s.withPending rest) = .next t) (n : Nat) :
    run (n + 1) (s.withPending (commandLine i :: rest)) = run n t :=
  run_succ ((step_commandWrite s rest _).trans ((runCommand_ok (decode_encode hwf) _).trans ht)) n

/-- UPD16 from 0 puts the entry that its byte names into ACC16. -/
theorem exec_upd16_from_zero {s : State} (h : s.acc16 = 0x0000#16) (b : Byte) :
    exec (.upd16 b) s = .next (s.withAcc16 (Table16.read s.tbl16 b)) := by
  simp [exec_upd16, h, upd16, State.withAcc16]

/-- UPD7 from 0 puts the entry that its byte names into ACC7. -/
theorem exec_upd7_from_zero {s : State} (h : s.acc7 = 0x00#8) (b : Byte) :
    exec (.upd7 b) s = .next (s.withAcc7 (Table7.read s.tbl7 b)) := by
  simp [exec_upd7, h, upd7, State.withAcc7]

/-- An update line whose operand is a byte is its command. -/
theorem whenFits_byte (f : Byte → Instr) (b : Byte) :
    whenFits (decide (b.toNat ≤ 0xFF)) (commandLine (f (BitVec.ofNat 8 b.toNat))) = some (commandLine (f b)) := by
  rw [whenFits_decide fun _ => rfl, if_pos (Nat.le_of_lt_succ b.isLt), BitVec.ofNat_toNat, BitVec.setWidth_eq]

/-- The three steps of PEEK16 (R89): ACC16 is cleared, takes the entry, and is read. -/
theorem run_peek16 (s : State) (i : Byte) (rest : List Input) :
    run 3 (s.withPending (commandLine (.set16 0x0000#16) :: commandLine (.upd16 i) :: .host (.rd32 0x00C#12) :: rest)) =
      .next (((s.withAcc16 (Table16.read s.tbl16 i)).withPending rest).reply
        (.word (zext32 (Table16.read s.tbl16 i)))) := by
  calc run 3 _ = run 2 ((s.withAcc16 0x0000#16).withPending (commandLine (.upd16 i) :: .host (.rd32 0x00C#12) :: rest)) :=
        run_commandLine rfl (exec_set16 _ _) 2
    _ = run 1 ((s.withAcc16 (Table16.read s.tbl16 i)).withPending (.host (.rd32 0x00C#12) :: rest)) :=
        run_commandLine rfl (exec_upd16_from_zero rfl i) 1
    _ = _ := run_succ (rd32_returns (shown := fun s => zext32 s.acc16) (fun _ => rfl) _ rest) 0

/-- The three steps of PEEK7 (R89), the same on the CRC7 side. -/
theorem run_peek7 (s : State) (i : Byte) (rest : List Input) :
    run 3 (s.withPending (commandLine (.set7 0x00#8) :: commandLine (.upd7 i) :: .host (.rd32 0x010#12) :: rest)) =
      .next (((s.withAcc7 (Table7.read s.tbl7 i)).withPending rest).reply (.word (zext32 (Table7.read s.tbl7 i)))) := by
  calc run 3 _ = run 2 ((s.withAcc7 0x00#8).withPending (commandLine (.upd7 i) :: .host (.rd32 0x010#12) :: rest)) :=
        run_commandLine rfl (exec_set7 _ _) 2
    _ = run 1 ((s.withAcc7 (Table7.read s.tbl7 i)).withPending (.host (.rd32 0x010#12) :: rest)) :=
        run_commandLine rfl (exec_upd7_from_zero rfl i) 1
    _ = _ := run_succ (rd32_returns (shown := fun s => zext32 s.acc7) (fun _ => rfl) _ rest) 0

/-- Settles O38: the scripts assemble, and their three steps read the entry whatever the gates are. -/
theorem peekReadsAnyEntryWithoutTheGate : Obligations.PeekReadsAnyEntryWithoutTheGate := by
  intro s i rest
  refine ⟨⟨_, (assembleScript_eq_some_iff _ [_, _, _]).mpr ?_, run_peek16 s i rest⟩,
    ⟨_, (assembleScript_eq_some_iff _ [_, _, _]).mpr ?_, run_peek7 s i rest⟩⟩
  · exact congrArg (fun line => [_, line, _]) (whenFits_byte .upd16 i)
  · exact congrArg (fun line => [_, line, _]) (whenFits_byte .upd7 i)

end Sys2Proof.Machine
end

section
/-! PROOFS of 40_table_builder.md: what BUILD16, BUILD7, WR16 and WR7 write (R100, R102, R105, R106), the built tables as GF(2)
polynomial division (R101, R103), the index of UPD7 (R103 (d)), and that no command knows the target order (R104). -/

namespace Sys2Proof.Machine

/-! ## A word handed to the engine -/

/-- Writing a legal word to CMD does what its command does, whatever waits (10_state.md R28). -/
theorem commandDoes_of_exec {w : Word} {i : Instr} {f : State → State} (hd : decode w = .ok i)
    (hexec : ∀ s, exec i s = .next (f s)) : CommandDoes w f := by
  intro s rest
  obtain ⟨t, ht, hrest⟩ := exec_ignoresPending i s
  obtain rfl : f s = t := Host.Outcome.next.inj ((hexec s).symm.trans ht)
  exact (step_commandWrite s rest w).trans ((runCommand_ok hd _).trans (hrest rest))

/-- Writing a word that does not decode sets ILL and does nothing else (60_exceptions.md R212). -/
theorem refusedAsIllegal_of_error {w : Word} {e : DecodeError} (hd : decode w = .error e) : RefusedAsIllegal w :=
  fun s rest => (step_commandWrite s rest w).trans (runCommand_error hd _)

/-! ## WR16 and WR7 -/

/-- The words of WR16 (30_encoding.md R82): IDX and DATA are free. -/
theorem decode_wr16_word {w : Word} (h : w &&& 0xFF000000#32 = 0x80000000#32) :
    decode w = .ok (.wr16 (w.extractLsb' 16 8) (w.extractLsb' 0 16)) := by
  obtain ⟨-, -, -, -, -, -, -, -, hwr16, -, -⟩ := wordSelectsItsTableRow w
  exact (hwr16 _ _).mpr ⟨h, rfl, rfl⟩

/-- The words of WR7 (R82): IDX and the low byte are free. -/
theorem decode_wr7_word {w : Word} (h : w &&& 0xFF00FF00#32 = 0x90000000#32) :
    decode w = .ok (.wr7 (w.extractLsb' 16 8) (w.extractLsb' 0 8)) := by
  obtain ⟨-, -, -, -, -, -, -, -, -, hwr7, -⟩ := wordSelectsItsTableRow w
  exact (hwr7 _ _).mpr ⟨h, rfl, rfl⟩

/-- A word with OP 9 and a bit of 15:8 set breaks a must-be-zero bit (R106). -/
theorem decode_wr7_high_byte {w : Word} (hop : opField w = 9#4) (hhigh : dataHigh w ≠ 0#8) :
    decode w = .error .mustBeZero := by
  simp [decode, hop, whenZero_error, hhigh]

/-- Settles O31: one entry is written (`read_write_same`, `read_write_other`), and a word of the row is its command. -/
theorem wr16WritesOneEntry : Obligations.Wr16WritesOneEntry :=
  ⟨fun s idx v => ⟨Table16.write s.tbl16 idx v, exec_wr16 s idx v, Table16.read_write_same ..,
      fun _ hj => Table16.read_write_other _ v hj⟩,
    fun _ hw => commandDoes_of_exec (decode_wr16_word hw) fun s => exec_wr16 s _ _⟩

/-- Settles O32: as WR16, and a word with bits 15:8 not 0 does not decode. -/
theorem wr7WritesOneEntry : Obligations.Wr7WritesOneEntry := by
  refine ⟨fun s idx v => ⟨Table7.write s.tbl7 idx v, exec_wr7 s idx v, Table7.read_write_same ..,
      fun _ hj => Table7.read_write_other _ v hj⟩,
    fun _ hw => commandDoes_of_exec (decode_wr7_word hw) fun s => exec_wr7 s _ _, fun w hw hhigh => ?_⟩
  obtain ⟨hop, -⟩ := (and_eq_iff_fields w _ _).mp hw
  have hop9 : opField w = 9#4 := (and_ones4 _).symm.trans hop
  exact refusedAsIllegal_of_error (decode_wr7_high_byte hop9 hhigh)

/-! ## BUILD16 and BUILD7 -/

/-- Settles O25: the entries of `built16` are R100's loop, and 0x10000000 is BUILD16's word. -/
theorem build16WritesTheDivisionTable : Obligations.Build16WritesTheDivisionTable :=
  ⟨built16, Table16.read_built16, exec_build16, commandDoes_of_exec (decode_encode (i := .build16) rfl) exec_build16⟩

/-- Settles O26: the entries of `built7` are R102's loop, and 0x20000000 is BUILD7's word. -/
theorem build7WritesTheDivisionTable : Obligations.Build7WritesTheDivisionTable :=
  ⟨built7, Table7.read_built7, exec_build7, commandDoes_of_exec (decode_encode (i := .build7) rfl) exec_build7⟩

/-! ## The built tables are linear -/

/-- XOR passes through `f`. -/
def XorLinear {m n : Nat} (f : BitVec m → BitVec n) : Prop := Function.Semiconj₂ f (· ^^^ ·) (· ^^^ ·)

/-- A reduction by `p` that each operand takes when its own bit is set is linear, since `p ^^^ p` is 0. -/
theorem reduce_xor {n : Nat} (x y : Bool) (u v p : BitVec n) :
    (if x ^^ y then u ^^^ v ^^^ p else u ^^^ v) = (if x then u ^^^ p else u) ^^^ (if y then v ^^^ p else v) := by
  match x, y with
  | false, false => rfl
  | false, true => exact BitVec.xor_assoc u v p
  | true, false =>
    show u ^^^ v ^^^ p = u ^^^ p ^^^ v
    ac_rfl
  | true, true =>
    calc u ^^^ v = u ^^^ v ^^^ (p ^^^ p) := by rw [BitVec.xor_self, BitVec.xor_zero]
      _ = (u ^^^ p) ^^^ (v ^^^ p) := by ac_rfl

theorem shiftLeft_xorLinear {n : Nat} (k : Nat) : XorLinear fun r : BitVec n => r <<< k :=
  fun a b => BitVec.shiftLeft_xor_distrib a b k

theorem round16_xorLinear : XorLinear round16 := fun a b => by
  simpa [round16, BitVec.shiftLeft_xor_distrib] using reduce_xor a.msb b.msb (a <<< 1) (b <<< 1) poly16

theorem reduce7_xorLinear : XorLinear reduce7 := fun a b => by
  simpa [reduce7] using reduce_xor a.msb b.msb a b poly7

theorem append_zero_xorLinear {m n : Nat} : XorLinear fun i : BitVec m => i ++ 0#n := fun a b => by
  beta_reduce
  rw [BitVec.xor_append, BitVec.xor_zero]

/-- R101 (c): 8 rounds of linear steps from a linear seed. -/
theorem entry16_xorLinear : XorLinear entry16 := (round16_xorLinear.iterate 8).comp append_zero_xorLinear

/-- R103 (c): the reduced seed and 7 rounds of shift and reduction, each linear. -/
theorem entry7_xorLinear : XorLinear entry7 :=
  ((reduce7_xorLinear.comp (shiftLeft_xorLinear 1)).iterate 7).comp reduce7_xorLinear

/-- While no bit of the byte has reached bit 15, a round only shifts. -/
theorem round16_iterate_eq_shiftLeft (i : Byte) {k : Nat} (hk : k ≤ 8) :
    round16^[k] (i.setWidth 16) = i.setWidth 16 <<< k := by
  induction k with
  | zero => simp
  | succ k ih =>
    have hmsb : (i.setWidth 16 <<< k).msb = false := by
      rw [BitVec.msb_eq_getLsbD_last, BitVec.getLsbD_shiftLeft, BitVec.getLsbD_setWidth,
        BitVec.getLsbD_of_ge i _ (by omega)]
      simp
    rw [Function.iterate_succ_apply', ih (by omega), round16, hmsb, BitVec.shiftLeft_add]
    simp

/-- R101 (a): 16 rounds from `i` are 8 rounds that shift it to `i << 8`, then BUILD16's own 8. -/
theorem entry16_eq_sixteen_rounds (i : Byte) : entry16 i = round16^[16] (i.setWidth 16) := by
  have hseed : i ++ 0x00#8 = i.setWidth 16 <<< 8 := by
    apply BitVec.eq_of_toNat_eq
    rw [toNat_append_add]
    bv_omega
  rw [entry16, hseed, ← round16_iterate_eq_shiftLeft i le_rfl, ← Function.iterate_add_apply]

/-- Settles O27: the entries by `entry16_eq_sixteen_rounds`, the linearity round by round. -/
theorem built16TableIsLinear : Obligations.Built16TableIsLinear := by
  refine fun s => ⟨_, exec_build16 s, fun i => ?_, fun a b => ?_⟩
  · exact (Table16.read_built16 i).trans (entry16_eq_sixteen_rounds i)
  · simpa only [Table16.read_built16] using entry16_xorLinear a b

/-- Settles O28: every entry ends in a reduction (`entry7_lt`), and every round is linear. -/
theorem built7TableIsLinearAndSevenBit : Obligations.Built7TableIsLinearAndSevenBit := by
  refine fun s => ⟨_, exec_build7 s, fun i => ?_, fun a b => ?_⟩
  · simpa only [Table7.read_built7] using entry7_lt i
  · simpa only [Table7.read_built7] using entry7_xorLinear a b

/-! ## Words as polynomials over GF(2) -/

section Polynomials
open Polynomial

/-- The polynomial whose coefficients are the bits of `v` (R101 (b), R103 (b)). -/
noncomputable def polyOf {n : Nat} (v : BitVec n) : (ZMod 2)[X] :=
  ∑ j ∈ Finset.range n, if v.getLsbD j then X ^ j else 0

theorem coeff_bit_term (b : Bool) (k j : Nat) :
    (if b then (X ^ k : (ZMod 2)[X]) else 0).coeff j = if k = j then (if b then 1 else 0) else 0 := by
  cases b <;> simp [coeff_X_pow, eq_comm]

theorem coeff_polyOf {n : Nat} (v : BitVec n) (j : Nat) : (polyOf v).coeff j = if v.getLsbD j then 1 else 0 := by
  simp only [polyOf, finsetSum_coeff, coeff_bit_term, Finset.sum_ite_eq', Finset.mem_range]
  by_cases hj : j < n
  · simp [hj]
  · simp [hj, BitVec.getLsbD_of_ge v j (by omega)]

theorem degree_polyOf_lt {n : Nat} {v : BitVec n} {m : Nat} (h : ∀ j, m ≤ j → v.getLsbD j = false) :
    (polyOf v).degree < m := by
  rw [degree_lt_iff_coeff_zero]
  intro j hj
  simp [coeff_polyOf, h j hj]

/-- XOR is addition over GF(2). -/
theorem polyOf_xor {n : Nat} (u v : BitVec n) : polyOf (u ^^^ v) = polyOf u + polyOf v := by
  ext j
  rw [coeff_add, coeff_polyOf, coeff_polyOf, coeff_polyOf, BitVec.getLsbD_xor]
  cases u.getLsbD j <;> cases v.getLsbD j <;> decide

/-- A shift is multiplication by x, but for the top bit, which it drops. -/
theorem X_mul_polyOf {n : Nat} (r : BitVec n) :
    X * polyOf r = polyOf (r <<< 1) + if r.msb then X ^ n else 0 := by
  ext j
  rw [coeff_add, coeff_polyOf, coeff_bit_term, BitVec.msb_eq_getLsbD_last, BitVec.getLsbD_shiftLeft]
  cases j with
  | zero => cases n <;> simp
  | succ j =>
    rw [coeff_X_mul, coeff_polyOf]
    rcases lt_trichotomy (j + 1) n with hlow | rfl | hhigh
    · simp [hlow, hlow.ne']
    · simp
    · simp [hhigh.ne, hhigh.le.not_gt, BitVec.getLsbD_of_ge r j (by omega)]

/-- A byte moved up by 8 bits is multiplied by x^8. -/
theorem polyOf_append_zero (i : Byte) : polyOf (i ++ 0x00#8) = polyOf i * X ^ 8 := by
  ext j
  rw [coeff_mul_X_pow', coeff_polyOf, coeff_polyOf, BitVec.getLsbD_append]
  by_cases hj : j < 8
  · simp [hj]
  · simp [hj, Nat.le_of_not_lt hj]

/-- `x^16 + x^12 + x^5 + 1` (R101). -/
noncomputable def divisor16 : (ZMod 2)[X] := X ^ 16 + X ^ 12 + X ^ 5 + 1

/-- `x^7 + x^3 + 1` (R103). -/
noncomputable def divisor7 : (ZMod 2)[X] := X ^ 7 + X ^ 3 + 1

theorem divisor16_monic : divisor16.Monic := by unfold divisor16; monicity!

theorem divisor7_monic : divisor7.Monic := by unfold divisor7; monicity!

theorem degree_divisor16 : divisor16.degree = (16 : Nat) := by unfold divisor16; compute_degree!

theorem degree_divisor7 : divisor7.degree = (7 : Nat) := by unfold divisor7; compute_degree!

/-- 0x1021 is the divisor without its leading term (GK1). -/
theorem X_pow_add_polyOf_poly16 : X ^ 16 + polyOf poly16 = divisor16 := by
  have hbits : polyOf poly16 = 1 + X ^ 5 + X ^ 12 := by simp [polyOf, Finset.sum_range_succ, poly16]
  rw [hbits, divisor16]
  ring

/-- 0x89 is the divisor (GK2). -/
theorem polyOf_poly7 : polyOf poly7 = divisor7 := by
  have hbits : polyOf poly7 = 1 + X ^ 3 + X ^ 7 := by simp [polyOf, Finset.sum_range_succ, poly7]
  rw [hbits, divisor7]
  ring

/-- What is congruent to `p` and of a lower degree than the divisor is the remainder. -/
theorem eq_modByMonic_of_dvd_sub {p q g : (ZMod 2)[X]} (hg : g.Monic) (hdvd : g ∣ p - q) (hdeg : q.degree < g.degree) :
    q = p %ₘ g :=
  ((modByMonic_eq_of_dvd_sub hg hdvd).trans ((modByMonic_eq_self_iff hg).mpr hdeg)).symm

/-- If one round multiplies by x modulo `g`, then `k` rounds multiply by x^k. -/
theorem X_pow_mul_congr_iterate {n : Nat} {g : (ZMod 2)[X]} {f : BitVec n → BitVec n}
    (h : ∀ r, g ∣ X * polyOf r - polyOf (f r)) (k : Nat) (r : BitVec n) :
    g ∣ X ^ k * polyOf r - polyOf (f^[k] r) := by
  induction k with
  | zero => simp
  | succ k ih =>
    rw [Function.iterate_succ_apply']
    have hsplit : X ^ (k + 1) * polyOf r - polyOf (f (f^[k] r)) =
        X * (X ^ k * polyOf r - polyOf (f^[k] r)) + (X * polyOf (f^[k] r) - polyOf (f (f^[k] r))) := by ring
    rw [hsplit]
    exact dvd_add (ih.mul_left X) (h _)

/-- A round of BUILD16 multiplies by x modulo the divisor: the bit that it drops stands for x^16. -/
theorem X_mul_congr_round16 (r : Half) : divisor16 ∣ X * polyOf r - polyOf (round16 r) := by
  rw [X_mul_polyOf, round16]
  cases r.msb with
  | false => simp
  | true =>
    simp only [if_true, polyOf_xor, CharTwo.sub_eq_add, ← X_pow_add_polyOf_poly16]
    exact dvd_of_eq (by linear_combination -polyOf (r <<< 1) * CharTwo.two_eq_zero (R := (ZMod 2)[X]))

/-- The reduction of BUILD7 keeps the remainder. -/
theorem polyOf_congr_reduce7 (r : Byte) : divisor7 ∣ polyOf r - polyOf (reduce7 r) := by
  unfold reduce7
  cases r.msb with
  | false => simp
  | true => simp [polyOf_xor, polyOf_poly7]

theorem reduce7_msb (r : Byte) : (reduce7 r).msb = false :=
  BitVec.msb_eq_false_iff_two_mul_lt.mpr (by have := reduce7_lt r; omega)

/-- R102's steps grouped the other way: a reduction and then a shift, which drops a 0. -/
def reduceShift7 (r : Byte) : Byte := reduce7 r <<< 1

/-- A reduction and then a shift multiply by x modulo the divisor. -/
theorem X_mul_congr_reduceShift7 (r : Byte) : divisor7 ∣ X * polyOf r - polyOf (reduceShift7 r) := by
  have hshift : polyOf (reduceShift7 r) = X * polyOf (reduce7 r) := by simp [X_mul_polyOf, reduceShift7, reduce7_msb]
  rw [hshift, ← mul_sub]
  exact (polyOf_congr_reduce7 r).mul_left X

/-- R102's rounds regrouped, with the last reduction at the end. -/
theorem entry7_eq_reduce7_iterate (i : Byte) : entry7 i = reduce7 (reduceShift7^[7] i) := by
  have hround : Function.Semiconj reduce7 reduceShift7 round7 := fun _ => rfl
  exact ((hround.iterate_right 7).eq i).symm

/-- R101 (b): 8 rounds multiply `i(x)·x^8` by x^8, and what is left has fewer than 16 bits. -/
theorem polyOf_entry16 (i : Byte) : polyOf (entry16 i) = polyOf i * X ^ 16 %ₘ divisor16 := by
  apply eq_modByMonic_of_dvd_sub divisor16_monic
  · have hrounds := X_pow_mul_congr_iterate X_mul_congr_round16 8 (i ++ 0x00#8)
    rw [polyOf_append_zero] at hrounds
    have hpow : polyOf i * X ^ 16 = X ^ 8 * (polyOf i * X ^ 8) := by ring
    rwa [hpow]
  · rw [degree_divisor16]
    exact degree_polyOf_lt fun j hj => BitVec.getLsbD_of_ge _ j hj

/-- R103 (b): 7 rounds multiply `i(x)` by x^7, the reductions keep the remainder, and what is left has 7 bits. -/
theorem polyOf_entry7 (i : Byte) : polyOf (entry7 i) = polyOf i * X ^ 7 %ₘ divisor7 := by
  apply eq_modByMonic_of_dvd_sub divisor7_monic
  · have hrounds := X_pow_mul_congr_iterate X_mul_congr_reduceShift7 7 i
    have hlast := polyOf_congr_reduce7 (reduceShift7^[7] i)
    simpa [entry7_eq_reduce7_iterate, mul_comm] using hrounds.add hlast
  · rw [degree_divisor7]
    exact degree_polyOf_lt fun j hj => Nat.testBit_lt_two_pow ((entry7_lt i).trans_le (Nat.pow_le_pow_right two_pos hj))

/-- Settles O29: `polyOf_entry16` at the entry that is read. -/
theorem built16EntryIsThePolynomialRemainder : Obligations.Built16EntryIsThePolynomialRemainder := by
  refine fun s i => ⟨_, exec_build16 s, ?_⟩
  rw [Table16.read_built16]
  exact polyOf_entry16 i

/-- Settles O30: `polyOf_entry7` at the entry that is read. -/
theorem built7EntryIsThePolynomialRemainder : Obligations.Built7EntryIsThePolynomialRemainder := by
  refine fun s i => ⟨_, exec_build7 s, ?_⟩
  rw [Table7.read_built7]
  exact polyOf_entry7 i

end Polynomials

/-! ## The index of UPD7 -/

/-- UPD7's index is the untruncated number, cut to 8 bits (41_reference_codec.md R133). -/
theorem upd7_index (c b : Byte) : (c <<< 1) ^^^ b = BitVec.ofNat 8 ((c.toNat <<< 1) ^^^ b.toNat) := by
  apply BitVec.eq_of_toNat_eq
  rw [BitVec.toNat_xor, BitVec.toNat_shiftLeft, BitVec.toNat_ofNat, Nat.xor_mod_two_pow, Nat.mod_eq_of_lt b.isLt]

/-- Settles O39: a 7-bit ACC7 shifted once, and so its XOR with a byte, stays below 2^8. -/
theorem sevenBitIndexIsNeverTruncated : Obligations.SevenBitIndexIsNeverTruncated := by
  rintro s b ⟨-, hacc7⟩
  have hshift : s.acc7.toNat <<< 1 < 2 ^ 8 := by rw [Nat.shiftLeft_eq]; omega
  refine ⟨Nat.le_of_lt_succ (Nat.xor_lt_two_pow hshift b.isLt), ?_⟩
  rw [exec_upd7, upd7, upd7_index]

/-! ## No command knows the target order -/

/-- A command answers the same with another ORDER, which it keeps. -/
theorem exec_withOrder {i : Instr} {s t : State} (h : exec i s = .next t) (o : ByteOrder) :
    exec i (s.withOrder o) = .next (t.withOrder o) := by
  cases i with
  | verify set =>
    by_cases hset : set = 3#2
    · subst hset
      cases h
      rfl
    · rw [exec_verify s hset] at h
      cases h
      exact exec_verify _ hset
  | _ => cases h; rfl

/-- Settles O58: the result is the command's own answer, whose ORDER is the old one by `exec_keeps`. -/
theorem commandsIgnoreTargetOrder : Obligations.CommandsIgnoreTargetOrder := by
  intro i s
  obtain ⟨t, ht, -⟩ := exec_ignoresPending i s
  obtain ⟨-, -, horder⟩ := exec_keeps ht
  exact ⟨t, horder, exec_withOrder ht⟩

end Sys2Proof.Machine
end

section
/-! PROOFS of 41_reference_codec.md: the words of SET16, SET7, UPD16 and UPD7 (R130 to R133), the updates as the spec writes
them (R132, R133), and the digest of a message of any length, run on the block (R135). -/

namespace Sys2Proof.Machine

/-! ## The legal words of the family (30_encoding.md R82) -/

theorem decode_set16_word {w : Word} (h : w &&& 0xFFFF0000#32 = 0x30000000#32) :
    decode w = .ok (.set16 (w.extractLsb' 0 16)) := by
  obtain ⟨-, -, -, hset16, -⟩ := wordSelectsItsTableRow w
  exact (hset16 _).mpr ⟨h, rfl⟩

theorem decode_set7_word {w : Word} (h : w &&& 0xFFFFFF00#32 = 0x40000000#32) :
    decode w = .ok (.set7 (w.extractLsb' 0 8)) := by
  obtain ⟨-, -, -, -, hset7, -⟩ := wordSelectsItsTableRow w
  exact (hset7 _).mpr ⟨h, rfl⟩

theorem decode_upd16_word {w : Word} (h : w &&& 0xFFFFFF00#32 = 0x50000000#32) :
    decode w = .ok (.upd16 (w.extractLsb' 0 8)) := by
  obtain ⟨-, -, -, -, -, hupd16, -⟩ := wordSelectsItsTableRow w
  exact (hupd16 _).mpr ⟨h, rfl⟩

theorem decode_upd7_word {w : Word} (h : w &&& 0xFFFFFF00#32 = 0x60000000#32) :
    decode w = .ok (.upd7 (w.extractLsb' 0 8)) := by
  obtain ⟨-, -, -, -, -, -, hupd7, -⟩ := wordSelectsItsTableRow w
  exact (hupd7 _).mpr ⟨h, rfl⟩

/-! ## The illegal words of the family (30_encoding.md R85) -/

/-- The mask of bits 31:28 compares OP alone (R80). -/
theorem opField_of_and_eq {w m : Word} (h : w &&& 0xF0000000#32 = m) : opField w = opField m := by
  obtain ⟨hop, -⟩ := (and_eq_iff_fields w _ m).mp h
  exact (and_ones4 _).symm.trans hop

/-- Bits 27:8 are RSV, IDX and the high byte of DATA (R80, R82). -/
theorem bits27_8_eq_zero_iff (w : Word) :
    w.extractLsb' 8 20 = 0#20 ↔ rsvField w = 0#4 ∧ idxField w = 0#8 ∧ dataHigh w = 0#8 := by
  simp only [← BitVec.toNat_inj, rsvField_toNat, idxField_toNat, dataHigh_toNat, BitVec.extractLsb'_toNat,
    Nat.shiftRight_eq_div_pow, BitVec.toNat_ofNat]
  omega

/-- SET16's row leaves IDX and RSV no value but 0. -/
theorem decode_set16_row_reserved {w : Word} (hop : opField w = 3#4) (h : idxField w ≠ 0#8 ∨ rsvField w ≠ 0#4) :
    decode w = .error .mustBeZero := by
  have hzero : (rsvField w == 0#4 && idxField w == 0#8) = false := by
    rw [Bool.and_eq_false_iff, beq_eq_false_iff_ne, beq_eq_false_iff_ne]
    exact h.symm
  simp [decode, hop, whenZero, hzero]

/-- The rows of SET7, UPD16 and UPD7 leave bits 27:8 no value but 0. -/
theorem decode_byte_row_reserved {w : Word} (hop : opField w = 4#4 ∨ opField w = 5#4 ∨ opField w = 6#4)
    (h : w.extractLsb' 8 20 ≠ 0#20) : decode w = .error .mustBeZero := by
  have hzero : (rsvField w == 0#4 && idxField w == 0#8 && dataHigh w == 0#8) = false := by
    rw [Bool.eq_false_iff]
    simpa [bits27_8_eq_zero_iff, and_assoc] using h
  rcases hop with hop | hop | hop <;> simp [decode, hop, whenZero, hzero]

/-! ## SET16 and SET7 -/

/-- Settles O33: a word of the row is its command, and one with a must-be-zero bit set does not decode. -/
theorem set16LoadsAcc16 : Obligations.Set16LoadsAcc16 :=
  ⟨exec_set16, fun _ hw => commandDoes_of_exec (decode_set16_word hw) fun s => exec_set16 s _,
    fun _ hop hbits => refusedAsIllegal_of_error (decode_set16_row_reserved (opField_of_and_eq hop) hbits)⟩

/-- Settles O34: as SET16; the value has all 8 bits of ACC7. -/
theorem set7LoadsAcc7 : Obligations.Set7LoadsAcc7 :=
  ⟨exec_set7, fun _ hw => commandDoes_of_exec (decode_set7_word hw) fun s => exec_set7 s _,
    fun _ hop hbits => refusedAsIllegal_of_error (decode_byte_row_reserved (.inl (opField_of_and_eq hop)) hbits)⟩

/-! ## UPD16 and UPD7 -/

/-- Shifting a half word up by 8 moves its low byte up over zeros. -/
theorem shiftLeft_eight_eq_append (c : Half) : c <<< 8 = c.extractLsb' 0 8 ++ 0x00#8 := by
  apply BitVec.eq_of_toNat_eq
  rw [toNat_append_add, BitVec.extractLsb'_toNat]
  bv_omega

/-- R132 by bytes: the high byte selects the entry, the low byte moves up. -/
theorem upd16_eq (t : Table16) (c : Half) (b : Byte) :
    upd16 t c b = Table16.read t (c.extractLsb' 8 8 ^^^ b) ^^^ (c.extractLsb' 0 8 ++ 0x00#8) := by
  rw [← shiftLeft_eight_eq_append]
  rfl

/-- R133 with its truncation spelled out: the shift is taken in 9 bits and cut to 8 after the XOR. -/
theorem upd7_eq (t : Table7) (c b : Byte) :
    upd7 t c b = Table7.read t (((c.setWidth 9 <<< 1) ^^^ b.setWidth 9).setWidth 8) := by
  have hindex : ((c.setWidth 9 <<< 1) ^^^ b.setWidth 9).setWidth 8 = (c <<< 1) ^^^ b := by
    simp [BitVec.setWidth_xor]
  rw [upd7, hindex]

theorem exec_upd16_eq (s : State) (b : Byte) : exec (.upd16 b) s =
    .next { s with
      acc16 := Table16.read s.tbl16 (s.acc16.extractLsb' 8 8 ^^^ b) ^^^ (s.acc16.extractLsb' 0 8 ++ 0x00#8) } := by
  rw [exec_upd16, upd16_eq]

theorem exec_upd7_eq (s : State) (b : Byte) : exec (.upd7 b) s =
    .next { s with acc7 := Table7.read s.tbl7 (((s.acc7.setWidth 9 <<< 1) ^^^ b.setWidth 9).setWidth 8) } := by
  rw [exec_upd7, upd7_eq]

/-- Settles O35: `upd16` is R132's formula by bytes, and the words of the row are as for SET7. -/
theorem upd16FoldsOneByte : Obligations.Upd16FoldsOneByte :=
  ⟨exec_upd16_eq, fun _ hw => commandDoes_of_exec (decode_upd16_word hw) fun s => exec_upd16_eq s _,
    fun _ hop hbits => refusedAsIllegal_of_error (decode_byte_row_reserved (.inr (.inl (opField_of_and_eq hop))) hbits)⟩

/-- Settles O36: `upd7`'s 8-bit index is the 9-bit one truncated, and the words of the row are as for SET7. -/
theorem upd7FoldsOneByte : Obligations.Upd7FoldsOneByte :=
  ⟨exec_upd7_eq, fun _ hw => commandDoes_of_exec (decode_upd7_word hw) fun s => exec_upd7_eq s _,
    fun _ hop hbits => refusedAsIllegal_of_error (decode_byte_row_reserved (.inr (.inr (opField_of_and_eq hop))) hbits)⟩

/-! ## The digest of a message, run on the block -/

/-- The operations of a digest (30_encoding.md R89): clear the accumulator, update it with each byte, read the register. -/
def digestOps (clear : Instr) (update : Byte → Instr) (off : Offset) (m : List Byte) : List Input :=
  commandLine clear :: m.map (fun b => commandLine (update b)) ++ [.host (.rd32 off)]

theorem assembleLine_upd16 (b : Byte) : assembleLine (.upd16 b.toNat) = some (commandLine (.upd16 b)) :=
  whenFits_byte .upd16 b

theorem assembleLine_upd7 (b : Byte) : assembleLine (.upd7 b.toNat) = some (commandLine (.upd7 b)) :=
  whenFits_byte .upd7 b

/-- A digest's script stands for `digestOps` when its lines stand for the commands and the read. -/
theorem assembleScript_digest {clearLine : ScriptLine} {updateLine : Nat → ScriptLine} {reg : ScriptReg} {clear : Instr}
    {update : Byte → Instr} (hclear : assembleLine clearLine = some (commandLine clear))
    (hupdate : ∀ b : Byte, assembleLine (updateLine b.toNat) = some (commandLine (update b))) (m : List Byte) :
    assembleScript (clearLine :: (m.map BitVec.toNat).map updateLine ++ [.rd reg]) =
      some (digestOps clear update reg.offset m) := by
  have hread : assembleLine (.rd reg) = some (.host (.rd32 reg.offset)) := rfl
  rw [assembleScript_eq_some_iff]
  simp [digestOps, hclear, hupdate, hread]

/-- The states `put c` hold one accumulator's value `c`, and `update b` takes it to `next c b`, whatever waits. -/
def UpdatesBy {α : Type} (update : Byte → Instr) (put : α → State) (next : α → Byte → α) : Prop :=
  ∀ (b : Byte) (c : α) (rest : List Input),
    exec (update b) ((put c).withPending rest) = .next ((put (next c b)).withPending rest)

/-- Updating with each byte of a message, in order, folds the message into the accumulator (R135). -/
theorem run_updates {α : Type} {update : Byte → Instr} {put : α → State} {next : α → Byte → α}
    (hwf : ∀ b, (update b).WellFormed) (hupd : UpdatesBy update put next) (m : List Byte) (c : α) (rest : List Input)
    (n : Nat) :
    run (m.length + n) ((put c).withPending (m.map (fun b => commandLine (update b)) ++ rest)) =
      run n ((put (m.foldl next c)).withPending rest) := by
  induction m generalizing c with
  | nil => rw [List.length_nil, Nat.zero_add]; rfl
  | cons b m ih =>
    rw [List.length_cons, Nat.add_right_comm]
    exact (run_commandLine (hwf b) (hupd b c _) _).trans (ih (next c b))

/-- The steps of DIGEST16: ACC16 is cleared, takes the fold of the message, and is read. -/
theorem run_digest16 (s : State) (m : List Byte) (rest : List Input) :
    run (m.length + 2) (s.withPending (digestOps (.set16 0x0000#16) .upd16 0x00C#12 m ++ rest)) =
      .next (((s.withAcc16 (m.foldl (upd16 s.tbl16) 0x0000#16)).withPending rest).reply
        (.word (zext32 (m.foldl (upd16 s.tbl16) 0x0000#16)))) := by
  have hupd : UpdatesBy .upd16 s.withAcc16 (upd16 s.tbl16) := fun _ _ _ => rfl
  rw [digestOps, List.append_assoc]
  calc run (m.length + 2) _ = run (m.length + 1) ((s.withAcc16 0x0000#16).withPending _) :=
        run_commandLine rfl (exec_set16 _ _) _
    _ = run 1 ((s.withAcc16 (m.foldl (upd16 s.tbl16) 0x0000#16)).withPending (.host (.rd32 0x00C#12) :: rest)) :=
        run_updates (fun _ => rfl) hupd m _ _ 1
    _ = _ := run_succ (rd32_returns (shown := fun s => zext32 s.acc16) (fun _ => rfl) _ rest) 0

/-- The steps of DIGEST7, the same on the CRC7 side, where DIG7 shows the fold finalized (R134). -/
theorem run_digest7 (s : State) (m : List Byte) (rest : List Input) :
    run (m.length + 2) (s.withPending (digestOps (.set7 0x00#8) .upd7 0x014#12 m ++ rest)) =
      .next (((s.withAcc7 (m.foldl (upd7 s.tbl7) 0x00#8)).withPending rest).reply
        (.word (zext32 (fin7 (m.foldl (upd7 s.tbl7) 0x00#8))))) := by
  have hupd : UpdatesBy .upd7 s.withAcc7 (upd7 s.tbl7) := fun _ _ _ => rfl
  rw [digestOps, List.append_assoc]
  calc run (m.length + 2) _ = run (m.length + 1) ((s.withAcc7 0x00#8).withPending _) :=
        run_commandLine rfl (exec_set7 _ _) _
    _ = run 1 ((s.withAcc7 (m.foldl (upd7 s.tbl7) 0x00#8)).withPending (.host (.rd32 0x014#12) :: rest)) :=
        run_updates (fun _ => rfl) hupd m _ _ 1
    _ = _ := run_succ (rd32_returns (shown := fun s => zext32 (fin7 s.acc7)) (fun _ => rfl) _ rest) 0

/-- Settles O37: the scripts assemble to `digestOps`, whose updates fold the message by induction on it (`run_updates`). -/
theorem digestIsTheFoldOfUpdates : Obligations.DigestIsTheFoldOfUpdates := fun s m rest =>
  ⟨⟨_, assembleScript_digest rfl assembleLine_upd16 m, run_digest16 s m rest⟩,
    ⟨_, assembleScript_digest rfl assembleLine_upd7 m, run_digest7 s m rest⟩⟩

end Sys2Proof.Machine
end

section
/-! PROOFS of 42_verifier.md R161 to R165: VERIFY runs its set's vectors and fails fast, what moves a gate bit, and what an
open gate promises. -/

namespace Sys2Proof.Machine

/-! ## What VERIFY leaves -/

/-- STATUS after a legal VERIFY: the V bits of the set show whether it passed, (VFAIL, VIDX) is its result (R161, R164). -/
def Status.verified (set : BitVec 2) (passed : Bool) (k : BitVec 3) (f : Status) : Status :=
  { f with
    v16 := if Covers16 set then passed else f.v16
    v7 := if Covers7 set then passed else f.v7
    vfail := !passed
    vidx := k }

/-- Every vector that the set runs passes. -/
abbrev SetPasses (set : BitVec 2) (t16 : Table16) (t7 : Table7) : Prop := ∀ k, Runs set k → VectorPasses t16 t7 k

/-- Vector `k` is the first one that the set runs and that fails (R162). -/
abbrev FailsFirstAt (set : BitVec 2) (t16 : Table16) (t7 : Table7) (k : Fin 6) : Prop :=
  Runs set k ∧ ¬ VectorPasses t16 t7 k ∧ ∀ j, j < k → Runs set j → VectorPasses t16 t7 j

section
variable {set : BitVec 2} {t16 : Table16} {t7 : Table7}

theorem verifiedStatus_of_passes (f : Status) (h : SetPasses set t16 t7) :
    verifiedStatus set t16 t7 f = f.verified set true 0#3 := by
  rw [verifiedStatus, (vrom_none set t16 t7).mpr h]
  simp only [Status.verified, Status.openGates, Status.beginVerify, covers16_iff, covers7_iff]
  split <;> split <;> rfl

theorem verifiedStatus_of_failsFirstAt (f : Status) {k : Fin 6} (h : FailsFirstAt set t16 t7 k) :
    verifiedStatus set t16 t7 f = f.verified set false (BitVec.ofNat 3 k.val) := by
  obtain ⟨hruns, hfails, hbefore⟩ := h
  rw [verifiedStatus, vrom_some hruns hfails hbefore]
  simp only [Status.verified, Status.failAt, Status.beginVerify, covers16_iff, covers7_iff]
  rfl

/-- The loop of VERIFY passes every vector, or stops at the first that fails. -/
theorem setPasses_or_failsFirstAt (set : BitVec 2) (t16 : Table16) (t7 : Table7) :
    SetPasses set t16 t7 ∨ ∃ k, FailsFirstAt set t16 t7 k := by
  cases hm : firstMismatch set t16 t7 vrom with
  | none => exact .inl ((vrom_none set t16 t7).mp hm)
  | some i =>
    obtain ⟨k, -, hfirst⟩ := vrom_first hm
    exact .inr ⟨k, hfirst⟩

theorem not_setPasses {k : Fin 6} (h : FailsFirstAt set t16 t7 k) : ¬ SetPasses set t16 t7 := by
  obtain ⟨hruns, hfails, -⟩ := h
  exact fun hpasses => hfails (hpasses k hruns)

/-- What a set that passes says of each table (R160, R161). -/
theorem setPasses_iff : SetPasses set t16 t7 ↔ (Covers16 set → Passes16 t16) ∧ (Covers7 set → Passes7 t7) := by
  constructor
  · exact fun h => ⟨fun hc => h 0 (.inl ⟨rfl, hc⟩), fun hc j => h j.succ (.inr ⟨Fin.succ_ne_zero j, hc⟩)⟩
  · rintro ⟨h16, h7⟩ k (⟨rfl, hc⟩ | ⟨hk, hc⟩)
    · exact h16 hc
    · obtain ⟨j, rfl⟩ := Fin.exists_succ_eq.mpr hk
      exact h7 hc j

theorem setPasses_crc16_iff : SetPasses 1#2 t16 t7 ↔ Passes16 t16 := by
  simp [setPasses_iff, Covers16, Covers7]

theorem setPasses_crc7_iff : SetPasses 2#2 t16 t7 ↔ Passes7 t7 := by
  simp [setPasses_iff, Covers16, Covers7]

end

section
variable {set : BitVec 2} {s : State}

theorem exec_verify_of_passes (hset : set ≠ 3#2) (h : SetPasses set s.tbl16 s.tbl7) :
    exec (.verify set) s = .next (s.withStatus (s.status.verified set true 0#3)) := by
  rw [exec_verify s hset, verifiedStatus_of_passes _ h]
  rfl

theorem exec_verify_of_failsFirstAt (hset : set ≠ 3#2) {k : Fin 6} (h : FailsFirstAt set s.tbl16 s.tbl7 k) :
    exec (.verify set) s = .next (s.withStatus (s.status.verified set false (BitVec.ofNat 3 k.val))) := by
  rw [exec_verify s hset, verifiedStatus_of_failsFirstAt _ h]
  rfl

/-- A legal VERIFY leaves `Status.verified`, with `passed` exactly when every vector of its set passes. -/
theorem exec_verify_eq_verified (s : State) (hset : set ≠ 3#2) :
    ∃ passed k, (passed = true ↔ SetPasses set s.tbl16 s.tbl7) ∧
      exec (.verify set) s = .next (s.withStatus (s.status.verified set passed k)) := by
  obtain hpasses | ⟨k, hfirst⟩ := setPasses_or_failsFirstAt set s.tbl16 s.tbl7
  · exact ⟨true, _, iff_of_true rfl hpasses, exec_verify_of_passes hset hpasses⟩
  · exact ⟨false, _, iff_of_false Bool.false_ne_true (not_setPasses hfirst), exec_verify_of_failsFirstAt hset hfirst⟩

end

/-! ## The words of VERIFY -/

theorem decode_verify_word {w : Word} (h : w &&& 0xFFFFFFFC#32 = 0x70000000#32) (hset : w.extractLsb' 0 2 ≠ 3#2) :
    decode w = .ok (.verify (w.extractLsb' 0 2)) := by
  obtain ⟨-, -, -, -, -, -, -, hverify, -⟩ := wordSelectsItsTableRow w
  exact (hverify _).mpr ⟨h, rfl, hset⟩

/-- Bits 27:2 are the must-be-zero bits of VERIFY's row (30_encoding.md R82). -/
theorem bits27_2_eq_zero_iff (w : Word) :
    w.extractLsb' 2 26 = 0#26 ↔ rsvField w = 0#4 ∧ idxField w = 0#8 ∧ dataHigh w = 0#8 ∧ verifyHigh w = 0#6 := by
  simp only [← BitVec.toNat_inj, rsvField_toNat, idxField_toNat, dataHigh_toNat, verifyHigh_toNat, BitVec.extractLsb'_toNat,
    Nat.shiftRight_eq_div_pow, BitVec.toNat_ofNat]
  omega

/-- A word with OP 7 is refused for set 3, and else for a must-be-zero bit (30_encoding.md R85). -/
theorem decode_verify_row_illegal {w : Word} (hop : opField w = 7#4)
    (h : w.extractLsb' 0 2 = 3#2 ∨ w.extractLsb' 2 26 ≠ 0#26) : ∃ e, decode w = .error e := by
  by_cases hset : setField w = 3#2
  · exact ⟨.verifySet, by simp [decode, hop, hset]⟩
  · have hbits := h.resolve_left hset
    have hzero : (rsvField w == 0#4 && idxField w == 0#8 && dataHigh w == 0#8 && verifyHigh w == 0#6) = false := by
      rw [Bool.eq_false_iff]
      simpa [bits27_2_eq_zero_iff, and_assoc] using hbits
    exact ⟨.mustBeZero, by simp [decode, hop, hset, whenZero, hzero]⟩

/-! ## Settled: VERIFY -/

/-- Settles O41: the two results of the loop, the meaning of set 3, and the words of the row. -/
theorem verifyRunsTheVectorsAndFailsFast : Obligations.VerifyRunsTheVectorsAndFailsFast := by
  refine ⟨fun s set hset hpasses => exec_verify_of_passes hset hpasses,
    fun s set k hset hruns hfails hbefore => exec_verify_of_failsFirstAt hset ⟨hruns, hfails, hbefore⟩,
    exec_verify_illegal, fun s rest w hw hset => ?_, fun w hop hbits => ?_⟩
  · exact (step_commandWrite s rest w).trans (runCommand_ok (decode_verify_word hw hset) _)
  · obtain ⟨e, he⟩ := decode_verify_row_illegal (opField_of_and_eq hop) hbits
    exact refusedAsIllegal_of_error he

/-- Settles O42: STATUS becomes some `Status.verified`, which keeps the sticky bits and the V bits outside the set. -/
theorem verifyAlwaysCompletes : Obligations.VerifyAlwaysCompletes := by
  intro s set hset
  obtain ⟨passed, k, -, hexec⟩ := exec_verify_eq_verified s hset
  exact ⟨_, hexec, rfl, rfl, rfl, fun h16 => if_neg h16, fun h7 => if_neg h7⟩

/-! ## What moves a gate bit -/

/-- The two variants, each with its table, its gate bit and its vectors (00_scope.md R13). -/
inductive Variant where
  | crc16
  | crc7

/-- The gate bit of a variant (10_state.md R29). -/
def Variant.gate : Variant → State → Bool
  | .crc16, s => s.status.v16
  | .crc7, s => s.status.v7

/-- The set covers the variant (R161). -/
def Variant.Covered : Variant → BitVec 2 → Prop
  | .crc16, set => Covers16 set
  | .crc7, set => Covers7 set

/-- BUILD and WR of the variant (R163), the commands that write its table. -/
def Variant.WritesTable : Variant → Instr → Prop
  | .crc16, i => i = .build16 ∨ ∃ idx v, i = .wr16 idx v
  | .crc7, i => i = .build7 ∨ ∃ idx v, i = .wr7 idx v

/-- What writes the variant's table closes its gate (40_table_builder.md R100, R102, R105, R106). -/
theorem exec_writesTable_closes {x : Variant} {i : Instr} {s t : State} (hi : x.WritesTable i) (h : exec i s = .next t) :
    x.gate t = false := by
  cases x with
  | crc16 => obtain rfl | ⟨idx, v, rfl⟩ := hi <;> cases h <;> rfl
  | crc7 => obtain rfl | ⟨idx, v, rfl⟩ := hi <;> cases h <;> rfl

/-- No variant is covered by set 3 (R161). -/
theorem Variant.Covered.legal {x : Variant} {set : BitVec 2} (h : x.Covered set) : set ≠ 3#2 := by
  rintro rfl
  cases x <;> revert h <;> unfold Variant.Covered <;> decide

theorem gate_verified_of_covered {x : Variant} {set : BitVec 2} (h : x.Covered set) (passed : Bool) (k : BitVec 3)
    (s : State) : x.gate (s.withStatus (s.status.verified set passed k)) = passed := by
  cases x <;> exact if_pos h

theorem gate_verified_of_not_covered {x : Variant} {set : BitVec 2} (h : ¬ x.Covered set) (passed : Bool) (k : BitVec 3)
    (s : State) : x.gate (s.withStatus (s.status.verified set passed k)) = x.gate s := by
  cases x <;> exact if_neg h

/-- The V bit after VERIFY: the result where the set covers the variant, else as it was. -/
theorem exec_verify_gate (x : Variant) {set : BitVec 2} {s t : State} (h : exec (.verify set) s = .next t) :
    (x.Covered set → (x.gate t = true ↔ SetPasses set s.tbl16 s.tbl7)) ∧ (¬ x.Covered set → x.gate t = x.gate s) := by
  by_cases hset : set = 3#2
  · subst hset
    cases h
    exact ⟨fun hc => absurd rfl hc.legal, fun _ => by cases x <;> rfl⟩
  · obtain ⟨passed, k, hpassed, hexec⟩ := exec_verify_eq_verified s hset
    obtain rfl := Host.Outcome.next.inj (hexec.symm.trans h)
    exact ⟨fun hc => by rw [gate_verified_of_covered hc, hpassed], fun hc => gate_verified_of_not_covered hc passed k s⟩

/-- A command that changes the gate bit writes the table or is a VERIFY that covers the variant. -/
theorem exec_writes_gate (x : Variant) {i : Instr} {s t : State} (h : exec i s = .next t) :
    x.gate t = x.gate s ∨ x.WritesTable i ∨ ∃ set, x.Covered set ∧ i = .verify set := by
  cases i with
  | verify set =>
    by_cases hc : x.Covered set
    · exact .inr (.inr ⟨set, hc, rfl⟩)
    · obtain ⟨-, hkeeps⟩ := exec_verify_gate x h
      exact .inl (hkeeps hc)
  | build16 => cases x with
    | crc16 => exact .inr (.inl (.inl rfl))
    | crc7 => cases h; exact .inl rfl
  | build7 => cases x with
    | crc16 => cases h; exact .inl rfl
    | crc7 => exact .inr (.inl (.inl rfl))
  | wr16 idx v => cases x with
    | crc16 => exact .inr (.inl (.inr ⟨idx, v, rfl⟩))
    | crc7 => cases h; exact .inl rfl
  | wr7 idx v => cases x with
    | crc16 => cases h; exact .inl rfl
    | crc7 => exact .inr (.inl (.inr ⟨idx, v, rfl⟩))
  | _ => cases h; cases x <;> exact .inl rfl

/-- The step on a command runs it. -/
theorem step_nextCommand {i : Instr} {s t : State} (hi : NextCommand s i) (h : step s = .next t) :
    ∃ rest, exec i (s.withPending rest) = .next t := by
  obtain ⟨w, rest, hp, hd⟩ := hi
  refine ⟨rest, ?_⟩
  rw [← h, step_serves hp]
  exact (runCommand_ok hd _).symm

/-- The operations that write the variant's table leave its gate closed: reset, BUILD and WR. -/
theorem step_closes_gate {x : Variant} {s t : State} (h : step s = .next t)
    (hw : NextReset s ∨ ∃ i, NextCommand s i ∧ x.WritesTable i) : x.gate t = false := by
  obtain ⟨abandoned, rest, hp⟩ | ⟨i, hnext, hi⟩ := hw
  · rw [step_serves hp] at h
    cases h
    cases x <;> rfl
  · obtain ⟨rest, hexec⟩ := step_nextCommand hnext h
    exact exec_writesTable_closes hi hexec

/-- A VERIFY that covers the variant leaves the gate open exactly when every vector of its set passes. -/
theorem step_verify_gate {x : Variant} {set : BitVec 2} {s t : State} (h : step s = .next t)
    (hnext : NextCommand s (.verify set)) (hc : x.Covered set) : x.gate t = true ↔ SetPasses set s.tbl16 s.tbl7 := by
  obtain ⟨rest, hexec⟩ := step_nextCommand hnext h
  obtain ⟨hgate, -⟩ := exec_verify_gate x hexec
  exact hgate hc

/-- A step that changes the gate bit is one of these. -/
theorem step_writes_gate {x : Variant} {s t : State} (h : step s = .next t) (hne : x.gate t ≠ x.gate s) :
    NextReset s ∨ ∃ i, NextCommand s i ∧ (x.WritesTable i ∨ ∃ set, x.Covered set ∧ i = .verify set) :=
  step_writer x.gate _ (fun _ _ => by cases x <;> rfl) (fun _ _ hk => by cases x; exacts [hk.v16, hk.v7])
    (fun _ _ _ => exec_writes_gate x) h hne

theorem step_keeps_gate {x : Variant} {s t : State} (h : step s = .next t) (hreset : ¬ NextReset s)
    (hwrites : ∀ i, x.WritesTable i → ¬ NextCommand s i)
    (hverify : ∀ set, x.Covered set → ¬ NextCommand s (.verify set)) : x.gate t = x.gate s := by
  by_contra hne
  obtain hr | ⟨i, hnext, hi | ⟨set, hc, rfl⟩⟩ := step_writes_gate h hne
  · exact hreset hr
  · exact hwrites i hi hnext
  · exact hverify set hc hnext

/-- An open gate was open before the step, or a VERIFY of the variant has just passed. -/
theorem step_open_gate {x : Variant} {s t : State} (h : step s = .next t) (hopen : x.gate t = true) :
    x.gate s = true ∨ ∃ set, x.Covered set ∧ SetPasses set s.tbl16 s.tbl7 := by
  by_cases hsame : x.gate t = x.gate s
  · exact .inl (hsame.symm.trans hopen)
  · have hnotClosed : x.gate t ≠ false := by simp [hopen]
    obtain hr | ⟨i, hnext, hi | ⟨set, hc, rfl⟩⟩ := step_writes_gate h hsame
    · exact absurd (step_closes_gate h (.inl hr)) hnotClosed
    · exact absurd (step_closes_gate h (.inr ⟨i, hnext, hi⟩)) hnotClosed
    · exact .inr ⟨set, hc, (step_verify_gate h hnext hc).mp hopen⟩

/-! ## Settled: the gates -/

theorem nextCommand_writesTable16 {s : State} :
    (∃ i, NextCommand s i ∧ Variant.crc16.WritesTable i) ↔
      NextCommand s .build16 ∨ ∃ idx v, NextCommand s (.wr16 idx v) := by
  simp [Variant.WritesTable, and_or_left, exists_or]

theorem nextCommand_writesTable7 {s : State} :
    (∃ i, NextCommand s i ∧ Variant.crc7.WritesTable i) ↔
      NextCommand s .build7 ∨ ∃ idx v, NextCommand s (.wr7 idx v) := by
  simp [Variant.WritesTable, and_or_left, exists_or]

/-- Settles O48: `step_closes_gate`, `step_verify_gate` and `step_keeps_gate` at each variant. -/
theorem gateBitsFollowTheLastVerify : Obligations.GateBitsFollowTheLastVerify := by
  intro s t h
  refine ⟨fun hw => ?_, fun hw => ?_, fun _ hnext hc => ?_, fun _ hnext hc => ?_, fun hreset hbuild hwr hverify => ?_,
    fun hreset hbuild hwr hverify => ?_⟩
  · exact step_closes_gate (x := .crc16) h (hw.imp_right nextCommand_writesTable16.mpr)
  · exact step_closes_gate (x := .crc7) h (hw.imp_right nextCommand_writesTable7.mpr)
  · exact step_verify_gate (x := .crc16) h hnext hc
  · exact step_verify_gate (x := .crc7) h hnext hc
  · refine step_keeps_gate (x := .crc16) h hreset ?_ hverify
    rintro i (rfl | ⟨idx, v, rfl⟩)
    exacts [hbuild, hwr idx v]
  · refine step_keeps_gate (x := .crc7) h hreset ?_ hverify
    rintro i (rfl | ⟨idx, v, rfl⟩)
    exacts [hbuild, hwr idx v]

/-- Settles O47: whatever writes a table (`onlyBuildWrAndResetWriteTables`) closes its gate. -/
theorem openTableIsUnchanged : Obligations.OpenTableIsUnchanged := by
  intro s t h
  obtain ⟨hwriter16, hwriter7, -⟩ := onlyBuildWrAndResetWriteTables s t h
  obtain ⟨hcloses16, hcloses7, -⟩ := gateBitsFollowTheLastVerify s t h
  constructor
  · intro hopen
    by_contra hne
    simp [hcloses16 (hwriter16 hne)] at hopen
  · intro hopen
    by_contra hne
    simp [hcloses7 (hwriter7 hne)] at hopen

/-- Settles O46: the table behind an open gate is the one before the step, which an earlier VERIFY passed or this one. -/
theorem stepKeepsGatesSound : Obligations.StepKeepsGatesSound := by
  rintro s t ⟨hsound16, hsound7⟩ h
  obtain ⟨hsame16, hsame7⟩ := openTableIsUnchanged s t h
  constructor
  · intro hopen
    rw [hsame16 hopen]
    obtain hs | ⟨set, hc, hpasses⟩ := step_open_gate (x := .crc16) h hopen
    · exact hsound16 hs
    · exact (setPasses_iff.mp hpasses).1 hc
  · intro hopen
    rw [hsame7 hopen]
    obtain hs | ⟨set, hc, hpasses⟩ := step_open_gate (x := .crc7) h hopen
    · exact hsound7 hs
    · exact (setPasses_iff.mp hpasses).2 hc

end Sys2Proof.Machine
end

section
/-! PROOFS of 42_verifier.md R166: the built tables pass every vector, and what VERIFY makes of one changed entry. -/

namespace Sys2Proof.Machine

/-! ## The entries that a message looks up -/

/-- The entry of TBL16 that UPD16 looks up (41_reference_codec.md R132). -/
def index16 (c : Half) (b : Byte) : Byte := (c >>> 8).setWidth 8 ^^^ b

/-- The entry of TBL7 that UPD7 looks up (R133). -/
def index7 (c b : Byte) : Byte := (c <<< 1) ^^^ b

/-- Folding a message from `c` by `next` looks up only entries that satisfy `p` and ends at an accumulator that satisfies
`q`. One function decides both, because the kernel then evaluates the fold byte by byte: of the fold alone it would build the
whole nest of updates first. -/
def foldsWithin {α : Type} (index : α → Byte → Byte) (next : α → Byte → α) (p : Byte → Bool) (q : α → Bool) :
    α → List Byte → Bool
  | c, [] => q c
  | c, b :: m => p (index c b) && foldsWithin index next p q (next c b) m

section
variable {α : Type} {index : α → Byte → Byte} {next : α → Byte → α} {p : Byte → Bool} {q : α → Bool} {c : α} {i : Byte}
  {m : List Byte}

theorem end_of_foldsWithin (h : foldsWithin index next p q c m = true) : q (m.foldl next c) = true := by
  induction m generalizing c with
  | nil => exact h
  | cons b m ih => exact ih (Bool.and_eq_true_iff.mp h).2

/-- An entry that does not satisfy `p` is none of those looked up. -/
theorem foldsWithin_ne (hi : p i = false) (h : foldsWithin index next p q c m = true) :
    foldsWithin index next (· != i) (fun _ => true) c m = true := by
  induction m generalizing c with
  | nil => rfl
  | cons b m ih =>
    obtain ⟨hp, hm⟩ := Bool.and_eq_true_iff.mp h
    have hne : index c b ≠ i := by
      rintro rfl
      simp [hi] at hp
    exact Bool.and_eq_true_iff.mpr ⟨bne_iff_ne.mpr hne, ih hm⟩

end

theorem avoids16_eq_foldsWithin (t : Table16) (i : Byte) (c : Half) (m : List Byte) :
    avoids16 t i c m = foldsWithin index16 (upd16 t) (· != i) (fun _ => true) c m := by
  induction m generalizing c with
  | nil => rfl
  | cons b m ih => exact congrArg _ (ih _)

theorem avoids7_eq_foldsWithin (t : Table7) (i c : Byte) (m : List Byte) :
    avoids7 t i c m = foldsWithin index7 (upd7 t) (· != i) (fun _ => true) c m := by
  induction m generalizing c with
  | nil => rfl
  | cons b m ih => exact congrArg _ (ih _)

theorem avoids16_of_foldsWithin {t : Table16} {p : Byte → Bool} {q : Half → Bool} {i : Byte} {c : Half} {m : List Byte}
    (hi : p i = false) (h : foldsWithin index16 (upd16 t) p q c m = true) : avoids16 t i c m = true :=
  (avoids16_eq_foldsWithin ..).trans (foldsWithin_ne hi h)

theorem avoids7_of_foldsWithin {t : Table7} {p q : Byte → Bool} {i c : Byte} {m : List Byte}
    (hi : p i = false) (h : foldsWithin index7 (upd7 t) p q c m = true) : avoids7 t i c m = true :=
  (avoids7_eq_foldsWithin ..).trans (foldsWithin_ne hi h)

theorem not_looksUp_of_avoids16 {t : Table16} {i : Byte} {m : List Byte} (h : avoids16 t i 0x0000#16 m = true) :
    ¬ LooksUp16 t m i :=
  fun ⟨pre, b, post, hm, hi⟩ => avoids16_iff.mp h pre b post hm hi

/-! ## The CRC7 vectors as data -/

/-- The message of a CRC7 vector, numbered as in `Vector7Passes` (R160). -/
def message7 : Fin 5 → List Byte
  | 0 => [0x40#8, 0x00#8, 0x00#8, 0x00#8, 0x00#8]
  | 1 => [0x48#8, 0x00#8, 0x00#8, 0x01#8, 0xAA#8]
  | 2 => [0x69#8, 0x40#8, 0x00#8, 0x00#8, 0x00#8]
  | 3 => [0x77#8, 0x00#8, 0x00#8, 0x00#8, 0x00#8]
  | 4 => [0x7A#8, 0x00#8, 0x00#8, 0x00#8, 0x00#8]

/-- Its expected digest (R160). -/
def expected7 : Fin 5 → Byte
  | 0 => 0x95#8
  | 1 => 0x87#8
  | 2 => 0x77#8
  | 3 => 0x65#8
  | 4 => 0xFD#8

theorem vector7Passes_iff (t : Table7) (j : Fin 5) : Vector7Passes t j ↔ digest7 t (message7 j) = expected7 j := by
  fin_cases j <;> rfl

/-! ## The built tables -/

/-- A value of the built table comes from its division loop, which the kernel evaluates without building the table. -/
theorem upd16_built16_eq : upd16 built16 = fun c b => entry16 (index16 c b) ^^^ (c <<< 8) := funext₂ upd16_built16

theorem upd7_built7_eq : upd7 built7 = fun c b => entry7 (index7 c b) := funext₂ upd7_built7

/-- Vector 0 on the built table (95_test_vectors.md sections 1 and 3.3). -/
theorem vector0_built16 :
    foldsWithin index16 (upd16 built16) (fun i => !namedUnreached16.contains i) (· == 0x7FA1#16) 0x0000#16
      (List.replicate 512 0xFF#8) = true := by
  rw [upd16_built16_eq]
  decide +kernel

/-- Vectors 1 to 5 on the built table (sections 1 and 3.3). -/
theorem vectors7_built7 : ∀ j,
    foldsWithin index7 (upd7 built7) (fun i => reached7.contains i) (fin7 · == expected7 j) 0x00#8 (message7 j) = true := by
  rw [upd7_built7_eq]
  decide +kernel

theorem passes16_built16 : Passes16 built16 := eq_of_beq (end_of_foldsWithin vector0_built16)

theorem passes7_built7 : Passes7 built7 := fun j =>
  (vector7Passes_iff _ j).mpr (eq_of_beq (end_of_foldsWithin (vectors7_built7 j)))

/-- Settles O43: three steps, the last of them a VERIFY of tables that pass. -/
theorem buildThenVerifyOpensBothGates : Obligations.BuildThenVerifyOpensBothGates := by
  refine ⟨built16, built7, Table16.read_built16, Table7.read_built7, fun s rest => ?_⟩
  have hpasses : SetPasses 0#2 built16 built7 := setPasses_iff.mpr ⟨fun _ => passes16_built16, fun _ => passes7_built7⟩
  have hverify : ∀ u : State, u.tbl16 = built16 → u.tbl7 = built7 →
      exec (.verify 0#2) u = .next (u.withStatus (u.status.verified 0#2 true 0#3)) :=
    fun u h16 h7 => exec_verify_of_passes (by decide) (by rwa [h16, h7])
  calc run 3 (s.withPending (commandLine .build16 :: commandLine .build7 :: commandLine (.verify 0#2) :: rest))
      = run 2 (State.withPending (commandLine .build7 :: commandLine (.verify 0#2) :: rest)
          { s with tbl16 := built16, status := s.status.close16 }) := run_commandLine rfl (exec_build16 _) 2
    _ = run 1 (State.withPending (commandLine (.verify 0#2) :: rest)
          { s with tbl16 := built16, tbl7 := built7, status := s.status.close16.close7 }) :=
        run_commandLine rfl (exec_build7 _) 1
    _ = _ := run_commandLine rfl (hverify _ rfl rfl) 0

/-! ## One entry changed -/

theorem passes16_write_of_avoids {t : Table16} {e : Byte} (hp : Passes16 t)
    (h : avoids16 t e 0x0000#16 (List.replicate 512 0xFF#8) = true) (v : Half) : Passes16 (Table16.write t e v) :=
  (foldl_write_of_avoids16 v h).trans hp

theorem vector7Passes_write_of_avoids {t : Table7} {e : Byte} {j : Fin 5} (hp : Vector7Passes t j)
    (h : avoids7 t e 0x00#8 (message7 j) = true) (v : Byte) : Vector7Passes (Table7.write t e v) j := by
  rw [vector7Passes_iff] at hp ⊢
  exact (congrArg fin7 (foldl_write_of_avoids7 v h)).trans hp

/-- Settles O44: a digest that does not look the changed entry up is the built table's. -/
theorem unreachedEntryIsNotCaught : Obligations.UnreachedEntryIsNotCaught := by
  constructor
  · intro s e v
    refine ⟨_, _, _, exec_build16 s, exec_wr16 _ e v, exec_verify _ (by decide), Table16.read_write_same .., ?_, ?_⟩
    · intro he
      exact not_looksUp_of_avoids16 (avoids16_of_foldsWithin (by simpa using he) vector0_built16)
    · intro he
      have hp : Passes16 (Table16.write built16 e v) :=
        passes16_write_of_avoids passes16_built16 (avoids16_of_not_looksUp he) v
      rw [verifiedStatus_of_passes _ (setPasses_crc16_iff.mpr hp)]
      exact ⟨rfl, rfl, rfl⟩
  · intro s e v
    refine ⟨_, _, _, exec_build7 s, exec_wr7 _ e v, exec_verify _ (by decide), Table7.read_write_same .., fun he => ?_⟩
    have hp : Passes7 (Table7.write built7 e v) := fun j =>
      vector7Passes_write_of_avoids (passes7_built7 j) (avoids7_of_foldsWithin (by simpa using he) (vectors7_built7 j)) v
    rw [verifiedStatus_of_passes _ (setPasses_crc7_iff.mpr hp)]
    exact ⟨rfl, rfl, rfl⟩

/-- A digest whose last byte alone looks the changed entry up is that entry, finalized. -/
theorem digest7_write_last {t : Table7} {m : List Byte} {b i : Byte} (hlast : index7 (m.foldl (upd7 t) 0x00#8) b = i)
    (h : avoids7 t i 0x00#8 m = true) (v : Byte) : digest7 (Table7.write t i v) (m ++ [b]) = fin7 v := by
  subst hlast
  rw [digest7, List.foldl_append, foldl_write_of_avoids7 v h]
  exact congrArg fin7 (Table7.read_write_same ..)

/-- Of vector 1 only the last byte looks entry 0x92 up (95_test_vectors.md section 1). -/
theorem vector1_built7 :
    foldsWithin index7 (upd7 built7) (· != 0x92#8) (index7 · 0x00#8 == 0x92#8) 0x00#8
      [0x40#8, 0x00#8, 0x00#8, 0x00#8] = true := by
  rw [upd7_built7_eq]
  decide +kernel

/-- Vectors 2 to 5 do not look entry 0x92 up. -/
theorem vectors2_to_5_avoid_0x92 : ∀ j : Fin 4, avoids7 built7 0x92#8 0x00#8 (message7 j.succ) = true := by
  simp only [avoids7_eq_foldsWithin, upd7_built7_eq]
  decide +kernel

/-- Finalization drops bit 7 of the accumulator, and 0x95 finalizes 0x4A (41_reference_codec.md R134). -/
theorem fin7_eq_0x95_iff (v : Byte) : fin7 v = 0x95#8 ↔ v.toNat % 128 = 0x4A := by
  rw [← BitVec.toNat_inj, fin7_toNat, BitVec.toNat_ofNat]
  omega

theorem vector1_write_0x92_iff (v : Byte) :
    Vector7Passes (Table7.write built7 0x92#8 v) 0 ↔ v.toNat % 128 = 0x4A := by
  have hlast : index7 ([0x40#8, 0x00#8, 0x00#8, 0x00#8].foldl (upd7 built7) 0x00#8) 0x00#8 = 0x92#8 :=
    eq_of_beq (end_of_foldsWithin vector1_built7)
  have hdigest : digest7 (Table7.write built7 0x92#8 v) (message7 0) = fin7 v :=
    digest7_write_last hlast (avoids7_of_foldsWithin rfl vector1_built7) v
  rw [vector7Passes_iff, hdigest]
  exact fin7_eq_0x95_iff v

/-- Settles O45: vector 1's digest is the changed entry, finalized, and the other vectors do not look it up. -/
theorem corruptedEntryIsCaught : Obligations.CorruptedEntryIsCaught := by
  intro s v
  refine ⟨_, _, _, exec_build7 s, exec_wr7 _ 0x92#8 v, exec_verify _ (by decide), fun hv => ?_, fun hv => ?_⟩
  · have hp : Passes7 (Table7.write built7 0x92#8 v) := fun j => by
      cases j using Fin.cases with
      | zero => exact (vector1_write_0x92_iff v).mpr hv
      | succ j => exact vector7Passes_write_of_avoids (passes7_built7 _) (vectors2_to_5_avoid_0x92 j) v
    rw [verifiedStatus_of_passes _ (setPasses_crc7_iff.mpr hp)]
    exact ⟨rfl, rfl, rfl⟩
  · have hfirst : FailsFirstAt 2#2 s.tbl16 (Table7.write built7 0x92#8 v) 1 := by
      refine ⟨by decide, mt (vector1_write_0x92_iff v).mp hv, fun j hj hruns => ?_⟩
      obtain rfl : j = 0 := by omega
      exact absurd hruns (by decide)
    rw [verifiedStatus_of_failsFirstAt _ hfirst]
    exact ⟨rfl, rfl, rfl⟩

end Sys2Proof.Machine
end

section
/-! PROOFS of 43_emission.md: what a byte read of a window gives, its gate open and closed (R180 to R183), the byte placement
of WIN16 in the two orders (R185), and the read-out of the artifacts (R186). -/

namespace Sys2Proof.Machine

/-! ## The rules of a window read -/

/-- An open WIN16 gives its byte and changes nothing else (R180). -/
theorem perform_win16_of_open {s : State} (hv : s.status.v16 = true) (k : BitVec 9) :
    perform (.rd8 (0x400#12 + k.setWidth 12)) s = .next (s.reply (.byte (win16Byte s.tbl16 s.order k))) := by
  simp [perform, read8, locate_win16, readWin16, hv]

/-- A closed WIN16 gives 0x00 and GATE (R183). -/
theorem perform_win16_of_closed {s : State} (hv : s.status.v16 = false) (k : BitVec 9) :
    perform (.rd8 (0x400#12 + k.setWidth 12)) s = .next (closedWindowRead s) := by
  simp [perform, read8, locate_win16, readWin16, hv]

/-- An open WIN7 gives the entry and changes nothing else (R182). -/
theorem perform_win7_of_open {s : State} (hv : s.status.v7 = true) (k : Byte) :
    perform (.rd8 (0x600#12 + k.setWidth 12)) s = .next (s.reply (.byte (Table7.read s.tbl7 k))) := by
  simp [perform, read8, locate_win7, readWin7, hv]

/-- A closed WIN7 gives 0x00 and GATE (R183). -/
theorem perform_win7_of_closed {s : State} (hv : s.status.v7 = false) (k : Byte) :
    perform (.rd8 (0x600#12 + k.setWidth 12)) s = .next (closedWindowRead s) := by
  simp [perform, read8, locate_win7, readWin7, hv]

theorem win16_gives_of_open {s : State} (hv : s.status.v16 = true) (k : BitVec 9) :
    ReadGives (.rd8 (0x400#12 + k.setWidth 12)) s (.byte (win16Byte s.tbl16 s.order k)) s.status :=
  fun rest vs => perform_win16_of_open (s := { s with pending := rest, reads := vs }) hv k

theorem win7_gives_of_open {s : State} (hv : s.status.v7 = true) (k : Byte) :
    ReadGives (.rd8 (0x600#12 + k.setWidth 12)) s (.byte (Table7.read s.tbl7 k)) s.status :=
  fun rest vs => perform_win7_of_open (s := { s with pending := rest, reads := vs }) hv k

/-- A window takes byte reads only: a write or a 4-byte read of its offset is a bus error (20_memory.md R52, R53). -/
theorem window_takes_byte_reads_only {off : Offset} (hl : ListedAccess (.rd8 off)) :
    WriteIsBusError off ∧ AccessDoes (.rd32 off) fun s =>
      { s with reads := s.reads ++ [.word 0#32], status := { s.status with berr := true } } := by
  have hge : 0x400 ≤ off.toNat := by
    obtain ⟨h, -⟩ | ⟨h, -⟩ := hl <;> omega
  have hrd32 : ¬ ListedAccess (.rd32 off) := by
    unfold ListedAccess
    omega
  refine ⟨writeIsBusError ?_ ?_, unlisted_isBusError hrd32⟩
  · rintro rfl
    exact absurd hge (by decide)
  · rintro rfl
    exact absurd hge (by decide)

/-! ## The byte placement of WIN16 -/

/-- The byte at offset `k`, with entry and half as numbers (R180, R181). -/
theorem win16Byte_eq (t : Table16) (order : ByteOrder) (k : BitVec 9) :
    win16Byte t order k =
      let v := Table16.read t (BitVec.ofNat 8 (k.toNat / 2))
      match order with
      | .big => if k.toNat % 2 = 0 then v.extractLsb' 8 8 else v.extractLsb' 0 8
      | .little => if k.toNat % 2 = 0 then v.extractLsb' 0 8 else v.extractLsb' 8 8 := by
  have hentry : k.extractLsb' 1 8 = BitVec.ofNat 8 (k.toNat / 2) := by
    apply BitVec.eq_of_toNat_eq
    simp [Nat.shiftRight_eq_div_pow]
  have hhalf : k.getLsbD 0 = decide (k.toNat % 2 = 1) := by
    simp [BitVec.getLsbD, Nat.testBit_zero]
  rw [win16Byte, hentry, hhalf]
  obtain heven | hodd := Nat.mod_two_eq_zero_or_one k.toNat
  · cases order <;> simp [heven, wbyte]
  · cases order <;> simp [hodd, wbyte]

/-- The two bytes of an entry stand at the offsets `e ++ 0` and `e ++ 1`. -/
theorem win16Byte_append (t : Table16) (order : ByteOrder) (e : Byte) (b : BitVec 1) :
    win16Byte t order (e ++ b) = wbyte (Table16.read t e) (b.getLsbD 0) order := by
  have hentry : (e ++ b).extractLsb' 1 8 = e := BitVec.extractLsb'_append_eq_left
  have hhalf : (e ++ b).getLsbD 0 = b.getLsbD 0 := by
    rw [BitVec.getLsbD_append]
    rfl
  rw [win16Byte, hentry, hhalf]

/-- The other half of a value is the same half of it in the other order (R181). -/
theorem wbyte_not_big (v : Half) (odd : Bool) : wbyte v (!odd) .big = wbyte v odd .little := by
  cases odd <;> rfl

theorem wbyte_not_little (v : Half) (odd : Bool) : wbyte v (!odd) .little = wbyte v odd .big := by
  cases odd <;> rfl

/-- Offset `k ^ 1` is the other half of the same entry (R185). -/
theorem win16Byte_xor_one (t : Table16) (order : ByteOrder) (k : BitVec 9) :
    win16Byte t order (k ^^^ 1#9) = wbyte (Table16.read t (k.extractLsb' 1 8)) (!k.getLsbD 0) order := by
  have hentry : (k ^^^ 1#9).extractLsb' 1 8 = k.extractLsb' 1 8 := by simp [BitVec.extractLsb'_xor]
  have hhalf : (k ^^^ 1#9).getLsbD 0 = !k.getLsbD 0 := by simp
  rw [win16Byte, hentry, hhalf]

/-- The high byte and the low byte of a value are the value. -/
theorem high_append_low (v : Half) : v.extractLsb' 8 8 ++ v.extractLsb' 0 8 = v :=
  (BitVec.extractLsb'_append_extractLsb'_eq_extractLsb' rfl).trans BitVec.extractLsb'_eq_self

/-! ## The artifact -/

/-- The artifact is the two halves of every entry (R186). -/
theorem artifact16_eq_flatMap (t : Table16) (order : ByteOrder) :
    artifact16 t order = t.toList.flatMap fun v => [wbyte v false order, wbyte v true order] := by
  cases order <;> rfl

theorem swapPairs_flatMap {α : Type} (f g : α → Byte) (xs : List α) :
    swapPairs (xs.flatMap fun x => [f x, g x]) = xs.flatMap fun x => [g x, f x] := by
  induction xs with
  | nil => rfl
  | cons x xs ih => exact congrArg (g x :: f x :: ·) ih

/-- A vector of 256 elements lists what the 8-bit indices give, in index order. -/
theorem toList_eq_map_byte_index {α : Type} (t : Vector α 256) :
    t.toList = (List.range 256).map fun i => t[(BitVec.ofNat 8 i).toNat]'(BitVec.ofNat 8 i).isLt := by
  apply List.ext_getElem
  · simp
  · intro i hi _
    have hi : i < 256 := by simpa using hi
    simp [Nat.mod_eq_of_lt hi]

theorem Table16.toList_eq_map_read (t : Table16) :
    t.toList = (List.range 256).map fun e => Table16.read t (BitVec.ofNat 8 e) := toList_eq_map_byte_index t

theorem Table7.toList_eq_map_read (t : Table7) :
    t.toList = (List.range 256).map fun k => Table7.read t (BitVec.ofNat 8 k) := toList_eq_map_byte_index t

/-- The numbers below `2 * n`, pair by pair. -/
theorem range_two_mul (n : Nat) : List.range (2 * n) = (List.range n).flatMap fun e => [2 * e, 2 * e + 1] := by
  induction n with
  | zero => rfl
  | succ n ih => simp [Nat.mul_succ, List.range_succ, ih]

/-- The bytes of WIN16 in the order of their offsets are the artifact (R186). -/
theorem artifact16_eq_map_win16Byte (t : Table16) (order : ByteOrder) :
    artifact16 t order = (List.range 512).map fun k => win16Byte t order (BitVec.ofNat 9 k) := by
  have hpair : ∀ e < 256, ∀ b : BitVec 1, BitVec.ofNat 9 (2 * e + b.toNat) = BitVec.ofNat 8 e ++ b := fun e he b => by
    apply BitVec.eq_of_toNat_eq
    have := b.isLt
    simp only [toNat_append_add, BitVec.toNat_ofNat]
    omega
  rw [artifact16_eq_flatMap, Table16.toList_eq_map_read, range_two_mul 256, List.map_flatMap, List.flatMap_map]
  refine List.flatMap_congr fun e he => ?_
  have he : e < 256 := List.mem_range.mp he
  have heven : BitVec.ofNat 9 (2 * e) = BitVec.ofNat 8 e ++ 0#1 := hpair e he 0#1
  have hodd : BitVec.ofNat 9 (2 * e + 1) = BitVec.ofNat 8 e ++ 1#1 := hpair e he 1#1
  rw [List.map_cons, List.map_singleton, heven, hodd, win16Byte_append, win16Byte_append]
  rfl

/-! ## Reads in a row -/

/-- Reads that each change nothing but the list of values read give their values in a row (20_memory.md R62). -/
theorem run_reads {κ : Type} {access : κ → Access} {value : κ → ReadValue} {s : State} (ks : List κ)
    (hread : ∀ k ∈ ks, ReadGives (access k) s (value k) s.status) (rest : List Input) (vs : List ReadValue) :
    run ks.length { s with pending := ks.map (fun k => .host (access k)) ++ rest, reads := vs } =
      .next { s with pending := rest, reads := vs ++ ks.map value } := by
  induction ks generalizing vs with
  | nil => simp
  | cons k ks ih =>
    obtain ⟨hk, hks⟩ := List.forall_mem_cons.mp hread
    have hstep : step { s with pending := (k :: ks).map (fun k => .host (access k)) ++ rest, reads := vs } =
        .next { s with pending := ks.map (fun k => .host (access k)) ++ rest, reads := vs ++ [value k] } := hk _ vs
    rw [List.length_cons, run_succ hstep, ih hks, List.append_assoc, List.map_cons, List.singleton_append]

/-- An offset of a window, as a number, is the window's base and a byte offset of `n` bits. -/
theorem ofNat_add_eq_window (base : Offset) {n k : Nat} (hk : k < 2 ^ n) :
    BitVec.ofNat 12 (base.toNat + k) = base + (BitVec.ofNat n k).setWidth 12 := by
  apply BitVec.eq_of_toNat_eq
  simp [Nat.mod_eq_of_lt hk]

/-- Reading out a window of 2^n bytes whose every byte read changes nothing but the values read (R186). -/
theorem run_windowReads {base : Offset} {n : Nat} {shown : BitVec n → Byte} {s : State}
    (hread : ∀ k, ReadGives (.rd8 (base + k.setWidth 12)) s (.byte (shown k)) s.status) (rest : List Input) :
    run (2 ^ n) { s with pending := windowReads base.toNat (2 ^ n) ++ rest } =
      .next { s with
        pending := rest
        reads := s.reads ++ ((List.range (2 ^ n)).map fun k => shown (BitVec.ofNat n k)).map .byte } := by
  have hreads : ∀ k ∈ List.range (2 ^ n), ReadGives (.rd8 (BitVec.ofNat 12 (base.toNat + k))) s
      (.byte (shown (BitVec.ofNat n k))) s.status := fun k hk => by
    rw [ofNat_add_eq_window base (List.mem_range.mp hk)]
    exact hread _
  have hrun := run_reads _ hreads rest s.reads
  rw [List.length_range] at hrun
  rw [List.map_map]
  exact hrun

/-! ## Changing the tables behind closed gates -/

/-- The same state with other tables. -/
def State.withTables (t16 : Table16) (t7 : Table7) (s : State) : State := (s.withTbl16 t16).withTbl7 t7

/-- No register shows a table (10_state.md R29 to R34). -/
theorem registerWord_withTables (t16 : Table16) (t7 : Table7) (s : State) (target : Target) :
    registerWord (s.withTables t16 t7) target = registerWord s target := by
  cases target <;> rfl

/-- With both gates closed an access that starts no command does the same whatever the tables hold (R183). -/
theorem perform_withTables_of_closed {a : Access} {s t : State} (t16 : Table16) (t7 : Table7)
    (hv16 : s.status.v16 = false) (hv7 : s.status.v7 = false) (ha : ∀ w, a ≠ .wr32 0x000#12 w)
    (h : perform a s = .next t) : perform a (s.withTables t16 t7) = .next (t.withTables t16 t7) := by
  obtain ⟨w, i, rfl, -, -⟩ | ⟨w, e, rfl, -, -⟩ | ⟨v, rfl, rfl⟩ | ⟨off, v, rfl, -, hv, rfl⟩ | ⟨k, rfl, -⟩ |
    ⟨k, rfl, -⟩ | ⟨hl, rfl⟩ := perform_cases h
  · exact absurd rfl (ha w)
  · exact absurd rfl (ha w)
  · rfl
  · rw [← registerWord_withTables t16 t7] at hv
    simp only [perform, read32, hv]
    rfl
  · rw [perform_win16_of_closed hv16] at h
    cases h
    exact perform_win16_of_closed (s := s.withTables t16 t7) hv16 k
  · rw [perform_win7_of_closed hv7] at h
    cases h
    exact perform_win7_of_closed (s := s.withTables t16 t7) hv7 k
  · exact perform_unlisted hl _

/-! ## The statements -/

/-- Settles O20: an open WIN16 gives the half that the parity of `k` picks, and a window takes byte reads only. -/
theorem win16ReadDeliversTargetOrder : Obligations.Win16ReadDeliversTargetOrder := by
  refine ⟨fun s k rest => ⟨fun hv => ?_, fun hv => perform_win16_of_closed (s := s.withPending rest) hv k⟩,
    fun k => window_takes_byte_reads_only ((listed_rd8 _).mpr (.inl ⟨k, locate_win16 k⟩))⟩
  exact (perform_win16_of_open (s := s.withPending rest) hv k).trans
    (congrArg (fun b => Host.Outcome.next ((s.withPending rest).reply (.byte b))) (win16Byte_eq s.tbl16 s.order k))

/-- Settles O21: the same for WIN7, whose entries are bytes. -/
theorem win7ReadDeliversTheEntry : Obligations.Win7ReadDeliversTheEntry :=
  ⟨fun s k rest => ⟨fun hv => perform_win7_of_open (s := s.withPending rest) hv k,
      fun hv => perform_win7_of_closed (s := s.withPending rest) hv k⟩,
    fun k => window_takes_byte_reads_only ((listed_rd8 _).mpr (.inr ⟨k, locate_win7 k⟩))⟩

/-- Settles O22: the access answers a state that does not depend on what waits, and commutes with changing the tables. -/
theorem closedWindowsRevealNoTableData : Obligations.ClosedWindowsRevealNoTableData := by
  intro s a t16 t7 hv16 hv7 ha
  obtain ⟨t, -, hrest⟩ := perform_ignoresPending a s
  exact ⟨t, fun rest => ⟨hrest rest,
    perform_withTables_of_closed t16 t7 (s := s.withPending rest) hv16 hv7 ha (hrest rest)⟩⟩

/-- Settles O23: offset `k ^ 1` is the other half of the entry, which is the same half in the other order; the artifact is the
pairs of halves; and the high half and the low half of an entry are the entry. -/
theorem byteOrderSwapsPairs : Obligations.ByteOrderSwapsPairs := by
  intro t
  refine ⟨fun k => ?_, fun k => ?_, ?_, ?_, fun e => ?_, fun e => ?_⟩
  · rw [win16Byte_xor_one, wbyte_not_big, win16Byte]
  · rw [win16Byte_xor_one, wbyte_not_little, win16Byte]
  · rw [artifact16_eq_flatMap, artifact16_eq_flatMap, swapPairs_flatMap]
    rfl
  · rw [artifact16_eq_flatMap, artifact16_eq_flatMap, swapPairs_flatMap]
    rfl
  · rw [win16Byte_append, win16Byte_append]
    exact high_append_low _
  · rw [win16Byte_append, win16Byte_append]
    exact high_append_low _

/-- Settles O24: every read of an open window changes nothing but the values read, and the bytes in offset order are the
artifact and TBL7. -/
theorem windowsReadOutTheArtifacts : Obligations.WindowsReadOutTheArtifacts := by
  refine fun s rest => ⟨fun hv => ?_, fun hv => ?_⟩
  · rw [artifact16_eq_map_win16Byte]
    exact run_windowReads (base := 0x400#12) (n := 9) (win16_gives_of_open hv) rest
  · rw [Table7.toList_eq_map_read]
    exact run_windowReads (base := 0x600#12) (n := 8) (win7_gives_of_open hv) rest

end Sys2Proof.Machine
end

section
/-! PROOFS of 44_system.md: NOP and CLRERR, their words, and the illegal words of their two rows (R200, R201). -/

namespace Sys2Proof.Machine

/-! ## The rows of NOP and CLRERR (30_encoding.md R82, R84) -/

/-- In a row without operands one word is the command and every other word is illegal (R85): a word that decoded to the
command would be its encoding. -/
theorem refusedAsIllegal_of_row {w : Word} {i : Instr} {zero : Bool} (hrow : decode w = whenZero zero i)
    (hne : w ≠ encode i) : RefusedAsIllegal w := by
  cases hd : decode w with
  | error e => exact refusedAsIllegal_of_error hd
  | ok j =>
    obtain ⟨-, rfl⟩ := whenZero_ok.mp (hrow.symm.trans hd)
    obtain ⟨-, hw⟩ := encode_of_decode hd
    exact absurd hw.symm hne

theorem decode_nop_row {w : Word} (hop : opField w = 0#4) :
    decode w = whenZero (rsvField w == 0#4 && idxField w == 0#8 && dataField w == 0#16) .nop := by
  rw [decode, hop]
  rfl

theorem decode_clrerr_row {w : Word} (hop : opField w = 10#4) :
    decode w = whenZero (rsvField w == 0#4 && idxField w == 0#8 && dataField w == 0#16) .clrerr := by
  rw [decode, hop]
  rfl

/-! ## Settled: NOP and CLRERR -/

/-- Settles O52: 0x00000000 is NOP's word, and no other word with OP 0 decodes. -/
theorem nopChangesNothing : Obligations.NopChangesNothing :=
  ⟨exec_nop, commandDoes_of_exec (decode_encode (i := .nop) rfl) exec_nop,
    fun _ hop hne => refusedAsIllegal_of_row (decode_nop_row (opField_of_and_eq hop)) hne⟩

/-- Settles O53: 0xA0000000 is CLRERR's word, and no other word with OP 0xA decodes. -/
theorem clrerrClearsTheStickyBits : Obligations.ClrerrClearsTheStickyBits :=
  ⟨exec_clrerr, commandDoes_of_exec (decode_encode (i := .clrerr) rfl) exec_clrerr,
    fun _ hop hne => refusedAsIllegal_of_row (decode_clrerr_row (opField_of_and_eq hop)) hne⟩

end Sys2Proof.Machine
end

section
/-! PROOFS of 60_exceptions.md: which words are illegal (R212), what causes each error and that an operation raises at most one
(R211, R217), and how long the error bits and the result of VERIFY stay (R220). -/

namespace Sys2Proof.Machine

/-! ## The illegal words (30_encoding.md R85) -/

/-- The masks of R85, read as the must-be-zero fields of R82's rows. -/
theorem illegalWord_iff_fields (w : Word) : IllegalWord w ↔
    11 ≤ (opField w).toNat ∨
    (opField w = 0#4 ∨ opField w = 1#4 ∨ opField w = 2#4 ∨ opField w = 10#4) ∧
      ¬ (rsvField w = 0#4 ∧ idxField w = 0#8 ∧ dataField w = 0#16) ∨
    opField w = 3#4 ∧ ¬ (rsvField w = 0#4 ∧ idxField w = 0#8) ∨
    (opField w = 4#4 ∨ opField w = 5#4 ∨ opField w = 6#4) ∧
      ¬ (rsvField w = 0#4 ∧ idxField w = 0#8 ∧ dataHigh w = 0#8) ∨
    opField w = 7#4 ∧
      (¬ (rsvField w = 0#4 ∧ idxField w = 0#8 ∧ dataHigh w = 0#8 ∧ verifyHigh w = 0#6) ∨ setField w = 3#2) ∨
    opField w = 8#4 ∧ ¬ rsvField w = 0#4 ∨
    opField w = 9#4 ∧ ¬ (rsvField w = 0#4 ∧ dataHigh w = 0#8) := by
  have hop : (w >>> 28).toNat = (opField w).toNat := by
    rw [opField_toNat, BitVec.toNat_ushiftRight, Nat.shiftRight_eq_div_pow]
  have hdata : dataField w = 0#16 ↔ dataHigh w = 0#8 ∧ verifyHigh w = 0#6 ∧ setField w = 0#2 :=
    dataField_eq_zext16_set w 0#2
  have and_ones2 (x : BitVec 2) : x &&& 0x3#2 = x := BitVec.and_allOnes
  simp only [IllegalWord, hop, hdata, and_eq_iff_fields, ne_eq, ← BitVec.toNat_inj (x := opField w)]
  simp only [rsvField, idxField, dataHigh, verifyHigh, setField, opField, BitVec.reduceExtractLsb', BitVec.and_zero,
    and_ones2, and_ones4, and_ones6, and_ones8, true_and, and_true]
  rfl

/-- No row of R82 has one of the five reserved values of OP. -/
theorem decode_reservedOp {w : Word} (h : 11 ≤ (opField w).toNat) : decode w = .error .reservedOp := by
  have hlt := (opField w).isLt
  rw [decode]
  interval_cases (opField w).toNat <;> rfl

/-- VERIFY's row rejects set 3, and any other set with a must-be-zero bit set. -/
theorem decode_verify_row_error_iff {w : Word} (hop : opField w = 7#4) : (∃ e, decode w = .error e) ↔
    ¬ (rsvField w = 0#4 ∧ idxField w = 0#8 ∧ dataHigh w = 0#8 ∧ verifyHigh w = 0#6) ∨ setField w = 3#2 := by
  by_cases hset : setField w = 3#2
  · simp [decode, hop, hset]
  · simp [decode, hop, hset, whenZero_error]

/-- R85's list is what the decoder rejects: OP chooses the row, whose must-be-zero fields are those of the list. -/
theorem illegalWord_iff_decode_error (w : Word) : IllegalWord w ↔ ∃ e, decode w = .error e := by
  rw [illegalWord_iff_fields]
  obtain hop | hop | hop | hop | hop | hop | hop | hop | hop | hop | hop | hreserved := op_values (opField w)
  on_goal 12 => exact iff_of_true (.inl hreserved) ⟨_, decode_reservedOp hreserved⟩
  on_goal 8 => simp [decode_verify_row_error_iff hop, hop]
  all_goals simp [decode, hop, whenZero_error]

/-- Settles O4: an illegal word does not decode, and every other word does, to the command whose word it is. -/
theorem illegalWordSetsIllOnly : Obligations.IllegalWordSetsIllOnly := by
  intro w
  constructor
  · intro hillegal
    obtain ⟨e, he⟩ := (illegalWord_iff_decode_error w).mp hillegal
    exact refusedAsIllegal_of_error he
  · intro hlegal
    cases hd : decode w with
    | error e => exact absurd ((illegalWord_iff_decode_error w).mpr ⟨e, hd⟩) hlegal
    | ok i =>
      obtain ⟨hwf, -⟩ := encode_of_decode hd
      exact ⟨i, hwf, rfl⟩

/-! ## What sets an error bit -/

/-- The sticky bit of an error (R211). -/
def Error.bit : Error → Status → Bool
  | .ill, f => f.ill
  | .gate, f => f.gate
  | .berr, f => f.berr

/-- The cause of an error (R211): the accesses that raise it, from which states. -/
def Error.Cause : Error → Access → State → Prop
  | .ill, a, _ => ∃ w, a = .wr32 0x000#12 w ∧ IllegalWord w
  | .gate, a, s =>
    (∃ k : BitVec 9, a = .rd8 (0x400#12 + k.setWidth 12) ∧ s.status.v16 = false) ∨
      (∃ k : Byte, a = .rd8 (0x600#12 + k.setWidth 12) ∧ s.status.v7 = false)
  | .berr, a, _ => ¬ ListedAccess a

theorem Error.bit_record (e e' : Error) (f : Status) : e.bit (f.record e') = (decide (e = e') || e.bit f) := by
  cases e <;> cases e' <;> rfl

/-- A WIN16 read leaves STATUS alone, or the gate is closed and it raises GATE (43_emission.md R180, R183). -/
theorem readWin16_status (k : BitVec 9) (s : State) :
    (readWin16 k s).status = s.status ∨
      s.status.v16 = false ∧ (readWin16 k s).status = s.status.record .gate := by
  cases hv : s.status.v16 with
  | true => exact .inl (by simp [readWin16, hv])
  | false => exact .inr ⟨rfl, by simp [readWin16, hv, closedWindowRead]⟩

/-- A WIN7 read, the same (R182, R183). -/
theorem readWin7_status (k : Byte) (s : State) :
    (readWin7 k s).status = s.status ∨
      s.status.v7 = false ∧ (readWin7 k s).status = s.status.record .gate := by
  cases hv : s.status.v7 with
  | true => exact .inl (by simp [readWin7, hv])
  | false => exact .inr ⟨rfl, by simp [readWin7, hv, closedWindowRead]⟩

/-- Everything an access can do to STATUS: run a legal command, leave STATUS alone, or raise one error, by its cause. -/
theorem perform_status_cases {a : Access} {s t : State} (h : perform a s = .next t) :
    (∃ w i, a = .wr32 0x000#12 w ∧ decode w = .ok i ∧ exec i s = .next t) ∨ t.status = s.status ∨
      ∃ e : Error, e.Cause a s ∧ t.status = s.status.record e := by
  obtain hcommand | ⟨w, e, ha, he, rfl⟩ | ⟨v, -, rfl⟩ | ⟨off, v, -, -, -, rfl⟩ | ⟨k, ha, rfl⟩ | ⟨k, ha, rfl⟩ |
    ⟨hl, rfl⟩ := perform_cases h
  · exact .inl hcommand
  · exact .inr (.inr ⟨.ill, ⟨w, ha, (illegalWord_iff_decode_error w).mpr ⟨e, he⟩⟩, rfl⟩)
  · exact .inr (.inl rfl)
  · exact .inr (.inl rfl)
  · exact .inr ((readWin16_status k s).imp_right fun ⟨hv, hst⟩ => ⟨.gate, .inl ⟨k, ha, hv⟩, hst⟩)
  · exact .inr ((readWin7_status k s).imp_right fun ⟨hv, hst⟩ => ⟨.gate, .inr ⟨k, ha, hv⟩, hst⟩)
  · exact .inr (.inr ⟨.berr, hl, rfl⟩)

/-- A legal command raises no error: CLRERR clears the bits and the others keep them. -/
theorem exec_errorBit {i : Instr} {s t : State} (hwf : i.WellFormed) (h : exec i s = .next t) (e : Error) :
    e.bit t.status = if i = .clrerr then false else e.bit s.status := by
  cases i with
  | verify set =>
    rw [exec_verify s ((wellFormed_verify set).mp hwf)] at h
    cases h
    obtain ⟨hill, hgate, hberr⟩ := verifiedStatus_keeps_sticky set s.tbl16 s.tbl7 s.status
    cases e
    exacts [hill, hgate, hberr]
  | _ => cases h; cases e <;> rfl

/-- An access that sets an error bit does so by the bit's cause, and does nothing else to STATUS (R211, R217). -/
theorem perform_raises {e : Error} {a : Access} {s t : State} (h : perform a s = .next t)
    (hclear : e.bit s.status = false) (hset : e.bit t.status = true) :
    e.Cause a s ∧ t.status = s.status.record e := by
  obtain ⟨w, i, -, hd, hexec⟩ | hst | ⟨e', hcause, hst⟩ := perform_status_cases h
  · obtain ⟨hwf, -⟩ := encode_of_decode hd
    simp [exec_errorBit hwf hexec, hclear] at hset
  · simp [hst, hclear] at hset
  · obtain rfl : e = e' := by simpa [hst, Error.bit_record, hclear] using hset
    exact ⟨hcause, hst⟩

/-! ## What sets VFAIL -/

/-- Only VERIFY changes the result (42_verifier.md R164). -/
theorem exec_writes_result {i : Instr} {s t : State} (h : exec i s = .next t) :
    (t.status.vfail, t.status.vidx) = (s.status.vfail, s.status.vidx) ∨ ∃ set, i = .verify set := by
  cases i with
  | verify set => exact .inr ⟨set, rfl⟩
  | _ => cases h; exact .inl rfl

/-- A legal VERIFY that leaves VFAIL set stopped at the first vector that fails (R161, R162). -/
theorem exec_verify_vfail {set : BitVec 2} {s t : State} (hset : set ≠ 3#2) (h : exec (.verify set) s = .next t)
    (hvfail : t.status.vfail = true) :
    ∃ k, FailsFirstAt set s.tbl16 s.tbl7 k ∧ t.status = s.status.verified set false (BitVec.ofNat 3 k.val) := by
  obtain hpasses | ⟨k, hfirst⟩ := setPasses_or_failsFirstAt set s.tbl16 s.tbl7
  · rw [exec_verify_of_passes hset hpasses] at h
    cases h
    cases hvfail
  · rw [exec_verify_of_failsFirstAt hset hfirst] at h
    cases h
    exact ⟨k, hfirst, rfl⟩

/-- An access that sets VFAIL is the CMD write of a legal VERIFY, and VIDX is the first vector that fails (R215). -/
theorem perform_sets_vfail {a : Access} {s t : State} (h : perform a s = .next t)
    (hclear : s.status.vfail = false) (hvfail : t.status.vfail = true) :
    ∃ w set k, a = .wr32 0x000#12 w ∧ decode w = .ok (.verify set) ∧ FailsFirstAt set s.tbl16 s.tbl7 k ∧
      t.status = s.status.verified set false (BitVec.ofNat 3 k.val) := by
  have hne : t.status.vfail ≠ s.status.vfail := by simp [hclear, hvfail]
  obtain ⟨w, i, ha, hd, hexec⟩ | ⟨hkeeps, -⟩ := perform_command_or_keeps h
  · obtain hresult | ⟨set, rfl⟩ := exec_writes_result hexec
    · exact absurd (congrArg Prod.fst hresult) hne
    · obtain ⟨hwf, -⟩ := encode_of_decode hd
      obtain ⟨k, hfirst, hst⟩ := exec_verify_vfail ((wellFormed_verify set).mp hwf) hexec hvfail
      exact ⟨w, set, k, ha, hd, hfirst, hst⟩
  · exact absurd hkeeps.vfail hne

/-- Settles O55: `perform_raises` at each error and `perform_sets_vfail`, which give the whole of STATUS after the access. -/
theorem eachErrorHasItsOneCause : Obligations.EachErrorHasItsOneCause := by
  intro s t a rest h
  have hperform : perform a (s.withPending rest) = .next t := h
  have hraises (e : Error) := perform_raises (e := e) hperform
  refine ⟨fun hclear hset => ?ill, fun hclear hset => ?gate, fun hclear hset => ?berr, fun hclear hset => ?vfail⟩
  case ill =>
    obtain ⟨hcause, hst⟩ := hraises .ill hclear hset
    exact ⟨hcause, by simp [hst]⟩
  case gate =>
    obtain ⟨hcause, hst⟩ := hraises .gate hclear hset
    exact ⟨hcause, by simp [hst]⟩
  case berr =>
    obtain ⟨hcause, hst⟩ := hraises .berr hclear hset
    exact ⟨hcause, by simp [hst]⟩
  case vfail =>
    obtain ⟨w, set, k, ha, hd, ⟨hruns, hfails, hbefore⟩, hst⟩ := perform_sets_vfail hperform hclear hset
    rw [hst]
    exact ⟨⟨w, set, k, ha, hd, hruns, hfails, hbefore, rfl⟩, rfl, rfl, rfl⟩

/-! ## How long errors and the result stay -/

/-- A set error bit stays set through every access but the CMD write of CLRERR (R220). -/
theorem perform_keeps_errorBit {e : Error} {a : Access} {s t : State} (h : perform a s = .next t)
    (hclrerr : ∀ w, a = .wr32 0x000#12 w → decode w ≠ .ok .clrerr) (hset : e.bit s.status = true) :
    e.bit t.status = true := by
  obtain ⟨w, i, ha, hd, hexec⟩ | hst | ⟨e', -, hst⟩ := perform_status_cases h
  · obtain ⟨hwf, -⟩ := encode_of_decode hd
    have hi : i ≠ .clrerr := by
      rintro rfl
      exact hclrerr w ha hd
    rw [exec_errorBit hwf hexec, if_neg hi, hset]
  · rw [hst, hset]
  · rw [hst, Error.bit_record, hset, Bool.or_true]

/-- A step that is no reset and no CLRERR keeps a set error bit (R220). -/
theorem step_keeps_errorBit {s t : State} (h : step s = .next t) (hreset : ¬ NextReset s)
    (hclrerr : ¬ NextCommand s .clrerr) (e : Error) (hset : e.bit s.status = true) : e.bit t.status = true := by
  obtain ⟨-, rfl⟩ | ⟨abandoned, rest, hp, -⟩ | ⟨a, rest, hp, hperform⟩ := step_cases h
  · exact hset
  · exact absurd ⟨abandoned, rest, hp⟩ hreset
  · refine perform_keeps_errorBit hperform ?_ hset
    rintro w rfl hd
    exact hclrerr ⟨w, rest, hp, hd⟩

/-- A step that is no reset and no VERIFY keeps the result (R220, 42_verifier.md R164). -/
theorem step_keeps_result {s t : State} (h : step s = .next t) (hreset : ¬ NextReset s)
    (hverify : ∀ set, ¬ NextCommand s (.verify set)) :
    (t.status.vfail, t.status.vidx) = (s.status.vfail, s.status.vidx) := by
  by_contra hne
  obtain hr | ⟨i, hnext, set, rfl⟩ := step_writer (fun u => (u.status.vfail, u.status.vidx)) _ (fun _ _ => rfl)
    (fun _ _ hk => Prod.ext hk.vfail hk.vidx) (fun _ _ _ => exec_writes_result) h hne
  · exact hreset hr
  · exact hverify set hnext

/-- Settles O54: `step_keeps_errorBit` at each error, and `step_keeps_result`. -/
theorem errorsStayUntilCleared : Obligations.ErrorsStayUntilCleared := by
  intro s t h hreset
  constructor
  · intro hclrerr
    have hkeeps := step_keeps_errorBit h hreset hclrerr
    exact ⟨hkeeps .ill, hkeeps .gate, hkeeps .berr⟩
  · intro hverify
    exact Prod.ext_iff.mp (step_keeps_result h hreset hverify)

end Sys2Proof.Machine
end

section
/-! PROOFS of 70_reset_and_hazards.md: what a reset step leaves, whatever was in progress (R240, R241). -/

namespace Sys2Proof.Machine

/-- Serving a reset performs none of the accesses it abandons (R241). -/
theorem serve_reset (abandoned : List Access) (s : State) : serve (.reset abandoned) s = .next (resetBlock s) := rfl

/-- A reset takes from the state before it only what still waits and what was read (R240). -/
theorem resetBlock_withPending (s : State) (rest : List Input) :
    resetBlock (s.withPending rest) = { State.reset with pending := rest, reads := s.reads } := rfl

/-- Settles O12: a step serves the operation at the front, and serving a reset is `resetBlock`, whatever it abandons. -/
theorem resetAbandonsEverything : Obligations.ResetAbandonsEverything := by
  intro s abandoned rest
  rw [step_serves rfl, serve_reset, resetBlock_withPending]

end Sys2Proof.Machine
end
